-- ==== Sys2Proof/Word.lean ====
section
/-! DEFINITION. The widths of the block's data (spec/00_scope.md R7): every value is an unsigned number of a stated width. -/

namespace Sys2Proof

/-- A byte of a frame, a device address or a function code (R7). -/
abbrev Byte := BitVec 8

/-- A 16-bit frame field, CRC value or result register (R7). -/
abbrev Half := BitVec 16

/-- A command word, `CMD_W` = 48 bits (R5, R54). -/
abbrev CommandWord := BitVec 48

end Sys2Proof
end

