-- ==== Sys2Proof/Syntax.lean ====
section
/-! DEFINITION. The command set (spec/30_encoding.md R56) and its written form (R62, R63). -/

namespace Sys2Proof

/-- The 14 commands of R56. An operand's width is the width of the field that carries it (R59), so every term is a
command the encoding admits. -/
inductive Instr where
  /-- `NOP` (R80). -/
  | nop
  /-- `CLR` (R81). -/
  | clr
  /-- `PUSH b` (R82). -/
  | push (b : Byte)
  /-- `SETLEN n` (R83). -/
  | setlen (n : Half)
  /-- `WRB i, b` (R84). -/
  | wrb (i : Half) (b : Byte)
  /-- `RDB i` (R85). -/
  | rdb (i : Half)
  /-- `RDW i` (R86). -/
  | rdw (i : Half)
  /-- `CRC` (R77). -/
  | crc
  /-- `APPEND` (R91). -/
  | append
  /-- `VALIDATE` (R93). -/
  | validate
  /-- `STRIP` (R94). -/
  | strip
  /-- `INIT a` (R101). -/
  | init (a : Byte)
  /-- `BLDRD a, r, c` (R96). -/
  | bldrd (a : Byte) (r c : Half)
  /-- `BLDWR a, r, v` (R97). -/
  | bldwr (a : Byte) (r v : Half)
  deriving DecidableEq, Repr

/-- One line of the assembler (R62, R63): a command with its operands as numbers, or a pseudo-command with its bytes.
A number may be out of range; `Written.inRange` says which are not. -/
inductive Written where
  | nop
  | clr
  | push (b : Nat)
  | setlen (n : Nat)
  | wrb (i b : Nat)
  | rdb (i : Nat)
  | rdw (i : Nat)
  | crc
  | append
  | validate
  | strip
  | init (a : Nat)
  | bldrd (a r c : Nat)
  | bldwr (a r v : Nat)
  /-- `LOAD b0 ... b(n-1)`: `CLR`, then one `PUSH` per byte. -/
  | load (bytes : List Nat)
  /-- `FRAME b0 ... b(n-1)`: `LOAD`, then `APPEND`. -/
  | frame (bytes : List Nat)
  /-- `CHECK b0 ... b(n-1)`: `LOAD`, then `VALIDATE`. -/
  | check (bytes : List Nat)
  deriving DecidableEq, Repr

end Sys2Proof
end

