-- ==== Sys2Proof/Decode.lean ====
section
/-! DEFINITION. Decoding and encoding command words (spec/30_encoding.md R54 to R60). Decoding is total on the 2^48 words; an illegal word is rejected by the name of what is wrong with it. -/

namespace Sys2Proof

/-- Field `op = w[47:40]` (R54). -/
def opField (w : CommandWord) : Byte := w.extractLsb' 40 8

/-- Field `a = w[39:32]` (R54). -/
def aField (w : CommandWord) : Byte := w.extractLsb' 32 8

/-- Field `r = w[31:16]` (R54). -/
def rField (w : CommandWord) : Half := w.extractLsb' 16 16

/-- Field `v = w[15:0]` (R54). -/
def vField (w : CommandWord) : Half := w.extractLsb' 0 16

/-- A word from its four fields, `op a r v` from the left (R54). -/
def joinFields (op a : Byte) (r v : Half) : CommandWord := op ++ a ++ r ++ v

/-- The five formats of R55. -/
inductive Format where
  /-- No operand: `a`, `r`, `v` reserved. -/
  | N
  /-- A byte in `a`: `r`, `v` reserved. -/
  | B
  /-- A 16-bit operand in `r`: `a`, `v` reserved. -/
  | I
  /-- An index in `r` and a byte in `a`: `v` reserved. -/
  | IB
  /-- All three operands: nothing reserved. -/
  | F
  deriving DecidableEq, Repr

/-- Why a word is no command (R57, R58). The block records none of it: both raise `IllegalCommand` (R106; log entry
17). -/
inductive IllegalWord where
  /-- `op` is not one of the 14 opcodes (R58). -/
  | unassignedOpcode
  /-- A field the format reserves is not zero (R57). -/
  | reservedNotZero
  deriving DecidableEq, Repr

/-- What a word decodes to: a command, or `ILLEGAL` (R60). -/
inductive Decoded where
  | command (i : Instr)
  | illegal (why : IllegalWord)
  deriving DecidableEq, Repr

/-- The fields a format reserves are zero (R55, R57). -/
def reservedZero (f : Format) (w : CommandWord) : Bool :=
  match f with
  | .N => aField w == 0 && rField w == 0 && vField w == 0
  | .B => rField w == 0 && vField w == 0
  | .I => aField w == 0 && vField w == 0
  | .IB => vField w == 0
  | .F => true

/-- A word with an assigned opcode: the command, unless a reserved field is not zero (R57). -/
def accept (f : Format) (w : CommandWord) (i : Instr) : Decoded :=
  if reservedZero f w then .command i else .illegal .reservedNotZero

/-- `decode` of R60, with the opcodes and formats of R56. -/
def decode (w : CommandWord) : Decoded :=
  match (opField w).toNat with
  | 0x00 => accept .N w .nop
  | 0x10 => accept .N w .clr
  | 0x11 => accept .B w (.push (aField w))
  | 0x12 => accept .I w (.setlen (rField w))
  | 0x13 => accept .IB w (.wrb (rField w) (aField w))
  | 0x14 => accept .I w (.rdb (rField w))
  | 0x15 => accept .I w (.rdw (rField w))
  | 0x20 => accept .N w .crc
  | 0x21 => accept .N w .append
  | 0x22 => accept .N w .validate
  | 0x23 => accept .N w .strip
  | 0x30 => accept .B w (.init (aField w))
  | 0x31 => accept .F w (.bldrd (aField w) (rField w) (vField w))
  | 0x32 => accept .F w (.bldwr (aField w) (rField w) (vField w))
  | _ => .illegal .unassignedOpcode

/-- The command of a decoded word, if it is one. -/
def Decoded.instr? : Decoded → Option Instr
  | .command i => some i
  | .illegal _ => none

/-- A word given as a number of `nbits` bits, the bits above `nbits` zero, as the command port takes it: one 48-bit
word, bit 0 the least significant. -/
def tableWord (nbits w : Nat) : CommandWord := BitVec.ofNat 48 (w % 2 ^ nbits)

/-- The command the decoder reads from the word `w` of `nbits` bits. -/
def decodeTableWord (nbits w : Nat) : Option Instr := (decode (tableWord nbits w)).instr?

/-- Encoding (R60): the opcode in `op`, each operand in its field, zero elsewhere. -/
def encode : Instr → CommandWord
  | .nop => joinFields 0x00 0 0 0
  | .clr => joinFields 0x10 0 0 0
  | .push b => joinFields 0x11 b 0 0
  | .setlen n => joinFields 0x12 0 n 0
  | .wrb i b => joinFields 0x13 b i 0
  | .rdb i => joinFields 0x14 0 i 0
  | .rdw i => joinFields 0x15 0 i 0
  | .crc => joinFields 0x20 0 0 0
  | .append => joinFields 0x21 0 0 0
  | .validate => joinFields 0x22 0 0 0
  | .strip => joinFields 0x23 0 0 0
  | .init a => joinFields 0x30 a 0 0
  | .bldrd a r c => joinFields 0x31 a r c
  | .bldwr a r v => joinFields 0x32 a r v

/-- A row of R56's opcode table: the mnemonic and the two 48-bit numbers such that a word `w` is this command exactly
when `w & mask = mtch`. -/
structure OpcodeRow where
  mnemonic : String
  mtch : CommandWord
  mask : CommandWord
  deriving DecidableEq, Repr

/-- R56's table, row by row, `match` and `mask` as it prints them. -/
def opcodeTable : List OpcodeRow :=
  [⟨"NOP", 0x000000000000, 0xFFFFFFFFFFFF⟩, ⟨"CLR", 0x100000000000, 0xFFFFFFFFFFFF⟩,
   ⟨"PUSH", 0x110000000000, 0xFF00FFFFFFFF⟩, ⟨"SETLEN", 0x120000000000, 0xFFFF0000FFFF⟩,
   ⟨"WRB", 0x130000000000, 0xFF000000FFFF⟩, ⟨"RDB", 0x140000000000, 0xFFFF0000FFFF⟩,
   ⟨"RDW", 0x150000000000, 0xFFFF0000FFFF⟩, ⟨"CRC", 0x200000000000, 0xFFFFFFFFFFFF⟩,
   ⟨"APPEND", 0x210000000000, 0xFFFFFFFFFFFF⟩, ⟨"VALIDATE", 0x220000000000, 0xFFFFFFFFFFFF⟩,
   ⟨"STRIP", 0x230000000000, 0xFFFFFFFFFFFF⟩, ⟨"INIT", 0x300000000000, 0xFF00FFFFFFFF⟩,
   ⟨"BLDRD", 0x310000000000, 0xFF0000000000⟩, ⟨"BLDWR", 0x320000000000, 0xFF0000000000⟩]

/-- The word matches this row of the table (R56). -/
def OpcodeRow.hits (row : OpcodeRow) (w : CommandWord) : Bool := w &&& row.mask == row.mtch

/-- The word is legal: some row of the table matches it (R56 to R58). -/
def legalWord (w : CommandWord) : Bool := opcodeTable.any (·.hits w)

/-- The mnemonic of a command (R56, R62). -/
def Instr.mnemonic : Instr → String
  | .nop => "NOP"
  | .clr => "CLR"
  | .push _ => "PUSH"
  | .setlen _ => "SETLEN"
  | .wrb _ _ => "WRB"
  | .rdb _ => "RDB"
  | .rdw _ => "RDW"
  | .crc => "CRC"
  | .append => "APPEND"
  | .validate => "VALIDATE"
  | .strip => "STRIP"
  | .init _ => "INIT"
  | .bldrd _ _ _ => "BLDRD"
  | .bldwr _ _ _ => "BLDWR"

end Sys2Proof
end

