-- ==== Sys2Proof/Machine/Operands.lean ====
section
/-! DEFINITION. How operands and frame fields are taken apart and put together (spec/00_scope.md R7; spec/20_memory.md R31, R32, R34; spec/30_encoding.md R51, R59). -/

namespace Sys2Proof.Machine

/-- `hi8(w)` = `w[15:8]` (R7). -/
def hi8 (w : Half) : Byte := w.extractLsb' 8 8

/-- `lo8(w)` = `w[7:0]` (R7). -/
def lo8 (w : Half) : Byte := w.extractLsb' 0 8

/-- `{h, l}`: the byte at the lower index is the more significant (R7, R34). -/
def be16 (h l : Byte) : Half := h ++ l

/-- `zext_16(b)` (R7). -/
def zext16 (b : Byte) : Half := b.setWidth 16

/-- A 16-bit field of a frame, most significant byte first (R31, R51). -/
def bigEndian (w : Half) : List Byte := [hi8 w, lo8 w]

/-- The CRC field of a frame, least significant byte first (R32, R51). -/
def littleEndian (c : Half) : List Byte := [lo8 c, hi8 c]

/-- An index or a length operand as a natural number: unsigned, unchanged (R59). -/
abbrev operandNat (n : Half) : Nat := n.toNat

end Sys2Proof.Machine
end

