-- ==== Sys2Proof/Config.lean ====
section
/-! DEFINITION. What an implementation fixes and what the spec leaves open (spec/00_scope.md R5, R6; spec/93_implementation_defined.md U1, U6, U7): constants without a body, so that every theorem holds for every value of them. -/

namespace Sys2Proof

/-- How far `BUF_SIZE` lies above its least legal value 25. The range of this constant is exactly the range R6 gives
`BUF_SIZE`, 25 to 65535. -/
opaque Config.bufSizeAbove : Fin 65511

/-- `BUF_SIZE`, the capacity of the frame buffer in bytes: the open parameter of R5 (U7; log entry 8). -/
def Config.bufSize : Nat := Config.bufSizeAbove.val + 25

/-- `FC_WRITE`, the function code of the write command frame: the open parameter of R5 (U6; log entry 9). -/
opaque Config.fcWrite : Byte

/-- FREE VALUE: `Config.resetByte k i` is what `BUF[i]` holds after reset number `k` until it is written (R22, R121,
R125; U1: any value, fixed until written, chosen again at each reset; log entry 3). -/
opaque Config.resetByte : Nat → Nat → Byte

/-- `LEN_W` = ceil(log2(BUF_SIZE + 1)), the width of `LEN` (R5). -/
def Config.lenW : Nat := Nat.clog 2 (Config.bufSize + 1)

end Sys2Proof
end

