-- ==== Sys2Proof/Machine/State.lean ====
section
/-! DEFINITION. The state of the block (spec/10_state.md R10 to R22), with what the host has still to do and what it last read beside it. Plain data. -/

namespace Sys2Proof.Machine

/-- `STATUS.ERR` (R18; codes in R106). The type has the four values the block can produce; codes 4 to 7 are reserved and
never produced (U3). -/
inductive ErrCode where
  /-- 0: no fault since reset. -/
  | noFault
  /-- 1: the word was no command (R57, R58). -/
  | illegalCommand
  /-- 2: the frame would grow past the end of the buffer. -/
  | bufferOverflow
  /-- 3: an operand names a byte, or a length, outside the buffer. -/
  | indexOutOfRange
  deriving DecidableEq, Repr

/-- The three ways the host meets the block (R131): it presents a command word, asserts reset, or reads a register by
its number on the register port. -/
inductive HostEvent where
  | command (w : CommandWord)
  | reset
  | readPort (n : Nat)
  deriving DecidableEq, Repr

/-- The bytes of `BUF` written since the last reset, as (index, byte) pairs with rising indices. -/
abbrev Memory := List Host.Cell

/-- The whole state of the block (R10): `buf` to `err`. The last three fields are the model's own: `resets`, `pending`
and `portOut` (log entries 4, 1 and 12). -/
structure State where
  /-- `BUF` (R11): the bytes written since the last reset; the others hold their free values (log entries 3 and 5). -/
  buf : Memory
  /-- `LEN` (R12), a number from 0 to `BUF_SIZE`. -/
  len : Nat
  /-- `CRC_OUT` (R13). -/
  crcOut : Half
  /-- `DOUT` (R14). -/
  dout : Half
  /-- `DEV_ADDR` (R15). -/
  devAddr : Byte
  /-- `STATUS.OK` (R17). -/
  ok : Bool
  /-- `STATUS.ERR` (R18). -/
  err : ErrCode
  /-- How many resets have been asserted: it numbers the free contents of `BUF` (R121). -/
  resets : Nat
  /-- What the host does next, in order (R131). -/
  pending : List HostEvent
  /-- What the host got from its last read of the register port (R23). -/
  portOut : Half
  deriving DecidableEq, Repr

/-- Why the model stops. No fault of the block is one of these: the block's three faults are latched in `err` and the
machine goes on (R108). -/
inductive Fault where
  /-- An access to a byte of the buffer that does not exist (R42: it is never made). Raised by the shared accesses of
  Ops.lean; it needs `LEN` above `BUF_SIZE`, which no run reaches (R25). SAFE: the model stops where the hardware has no
  behaviour (log entry 7). -/
  | outsideBuffer (index : Nat)
  deriving DecidableEq, Repr

/-- Why the model gives no meaning. -/
inductive Refusal where
  /-- Raised by `exec`'s arm of a command that has no meaning yet; no arm does. SAFE: nothing is claimed of it. -/
  | notModelled (mnemonic : String)
  deriving DecidableEq, Repr

/-- The block after reset, as the table of R22 says. Nothing of `BUF` is written, so every byte holds its free value. -/
def State.reset : State where
  buf := []
  len := 0
  crcOut := 0xFFFF
  dout := 0x0000
  devAddr := 0xF8
  ok := false
  err := .noFault
  resets := 0
  pending := []
  portOut := 0

/-- What a command, or a step, answers. -/
abbrev Result := Host.Outcome State Fault Refusal

end Sys2Proof.Machine
end

