-- ==== Sys2Proof/Machine/Ops.lean ====
section
/-! DEFINITION. The named operations over the buffer and the registers: byte accesses, the current frame, register writes, fault entry, reset, and taking the host's next event. Every meaning is written over these. -/

namespace Sys2Proof.Machine

/-! ### The list of written bytes -/

/-- The byte written at index `i`, or none: an index the list does not name has not been written since the last reset. -/
def Memory.lookup : Memory → Nat → Option Byte
  | [], _ => none
  | (a, b) :: m, i => if i = a then some b else Memory.lookup m i

/-- Write one byte, keeping the indices rising. -/
def Memory.store : Memory → Nat → Byte → Memory
  | [], i, b => [(i, b)]
  | (a, x) :: m, i, b =>
    if i < a then (i, b) :: (a, x) :: m
    else if i = a then (i, b) :: m
    else (a, x) :: Memory.store m i b

/-- Write adjacent bytes, the first at index `i`. -/
def Memory.storeAll : Memory → Nat → List Byte → Memory
  | m, _, [] => m
  | m, i, b :: bs => Memory.storeAll (Memory.store m i b) (i + 1) bs

/-- Indices from `lo` on, strictly rising, all inside the buffer space (R30). -/
def Memory.risingFrom : Nat → Memory → Bool
  | _, [] => true
  | lo, (a, _) :: m => decide (lo ≤ a) && decide (a < Config.bufSize) && Memory.risingFrom (a + 1) m

/-- The canonical form: indices strictly rising and inside the buffer. No entry can equal what an unlisted index looks
up to, which is no byte (log entry 5). -/
def Memory.wf (m : Memory) : Bool := Memory.risingFrom 0 m

/-! ### Register writes, one operation per piece of state -/

def setBuf (s : State) (m : Memory) : State := { s with buf := m }
def setLen (s : State) (n : Nat) : State := { s with len := n }
def setCrcOut (s : State) (c : Half) : State := { s with crcOut := c }
def setDout (s : State) (d : Half) : State := { s with dout := d }
def setDevAddr (s : State) (a : Byte) : State := { s with devAddr := a }
def setOk (s : State) (b : Bool) : State := { s with ok := b }
def setErr (s : State) (e : ErrCode) : State := { s with err := e }
def setPending (s : State) (p : List HostEvent) : State := { s with pending := p }
def setPortOut (s : State) (v : Half) : State := { s with portOut := v }

/-! ### Reading the buffer -/

/-- What `BUF[i]` holds when nothing has written it since the last reset: a free value, fixed until written (R22, R125;
U1). The one definition of what an unlisted index reads as. -/
def unwrittenByte (s : State) (i : Nat) : Byte := Config.resetByte s.resets i

/-- `BUF[i]`, for `i` inside the buffer. -/
def byteAt (s : State) (i : Nat) : Byte := (Memory.lookup s.buf i).getD (unwrittenByte s i)

/-- `BUF[a..a+n)` (R7). -/
def bytesFrom (s : State) : Nat → Nat → List Byte
  | _, 0 => []
  | a, n + 1 => byteAt s a :: bytesFrom s (a + 1) n

/-- The current frame `BUF[0..LEN)` (R9, R12). -/
def currentFrame (s : State) : List Byte := bytesFrom s 0 s.len

/-- `MemRead(i, 1)` (R7), then `k` with the byte. -/
def loadByte (s : State) (i : Nat) (k : Byte → Result) : Result :=
  if i < Config.bufSize then k (byteAt s i) else .fault (.outsideBuffer i)

/-- `MemRead(i, 2)` (R7, R34), then `k` with the number. -/
def loadHalf (s : State) (i : Nat) (k : Half → Result) : Result :=
  loadByte s i fun h => loadByte s (i + 1) fun l => k (be16 h l)

/-- Read the current frame as one snapshot (R36), then `k` with its bytes. -/
def loadFrame (s : State) (k : List Byte → Result) : Result :=
  if s.len ≤ Config.bufSize then k (currentFrame s) else .fault (.outsideBuffer Config.bufSize)

/-! ### Writing the buffer -/

/-- `MemWrite`s of adjacent bytes, the first at index `i` (R7, R36), then `k` with the new state. -/
def storeBytes (s : State) (i : Nat) (bs : List Byte) (k : State → Result) : Result :=
  if i + bs.length ≤ Config.bufSize then k (setBuf s (Memory.storeAll s.buf i bs))
  else .fault (.outsideBuffer Config.bufSize)

/-! ### Faults and reset -/

/-- The first line of every command's pseudocode: while `ERR` is not 0 there is no effect (R109). -/
def whileRunning (s : State) (k : Result) : Result :=
  if s.err = .noFault then k else .next s

/-- Fault entry (R108): the code goes to `STATUS.ERR`, if `ERR` is 0, and nothing else changes. -/
def raise (e : ErrCode) (s : State) : Result := whileRunning s (.next (setErr s e))

/-- Reset (R120, R121): every register takes the value of R22's table, and every byte of `BUF` a fresh free value. What
the host still has to do, and what it last read, are not the block's (log entry 18). -/
def assertReset (s : State) : State :=
  { State.reset with resets := s.resets + 1, pending := s.pending, portOut := s.portOut }

/-! ### The host's next event -/

/-- The next thing the host does, and the state once it is taken from the list; none when the host does nothing more. -/
def takeEvent (s : State) : Option (HostEvent × State) :=
  match s.pending with
  | [] => none
  | e :: rest => some (e, setPending s rest)

/-- The host presents this command word next. -/
def presentWord (s : State) (w : CommandWord) : State := setPending s (.command w :: s.pending)

end Sys2Proof.Machine
end

