-- ==== Sys2Proof/Machine/Buffer.lean ====
section
/-! DEFINITION. The buffer access commands (spec/41_buffer.md): NOP, CLR, PUSH, SETLEN, WRB, RDB, RDW. -/

namespace Sys2Proof.Machine

/-- `NOP` (R80): no state changes, whether `ERR` is zero or not. -/
def execNop (s : State) : Result := .next s

/-- `CLR` (R81): `LEN <- 0`; no byte of `BUF` changes. -/
def execClr (s : State) : Result := whileRunning s (.next (setLen s 0))

/-- `PUSH b` (R82): `BUF[LEN] <- b`, then `LEN <- LEN + 1`; `BufferOverflow` when `LEN = BUF_SIZE`. -/
def execPush (b : Byte) (s : State) : Result :=
  whileRunning s
    (if s.len = Config.bufSize then raise .bufferOverflow s
    else storeBytes s s.len [b] fun t => .next (setLen t (s.len + 1)))

/-- `SETLEN n` (R83): `LEN <- n`; `IndexOutOfRange` when `n > BUF_SIZE`. The rule's `n[LEN_W-1:0]` is `n` itself, since
`n` is at most `BUF_SIZE` (`setlen_keeps_n` of Laws/Config.lean). -/
def execSetlen (n : Half) (s : State) : Result :=
  whileRunning s
    (if operandNat n > Config.bufSize then raise .indexOutOfRange s else .next (setLen s (operandNat n)))

/-- `WRB i, b` (R84): `BUF[i] <- b`; `IndexOutOfRange` when `i >= BUF_SIZE`. -/
def execWrb (i : Half) (b : Byte) (s : State) : Result :=
  whileRunning s
    (if operandNat i ≥ Config.bufSize then raise .indexOutOfRange s
    else storeBytes s (operandNat i) [b] fun t => .next t)

/-- `RDB i` (R85): `DOUT <- zext_16(BUF[i])`; `IndexOutOfRange` when `i >= BUF_SIZE`. -/
def execRdb (i : Half) (s : State) : Result :=
  whileRunning s
    (if operandNat i ≥ Config.bufSize then raise .indexOutOfRange s
    else loadByte s (operandNat i) fun b => .next (setDout s (zext16 b)))

/-- `RDW i` (R86): `DOUT <- {BUF[i], BUF[i+1]}`; `IndexOutOfRange` when `i + 1 >= BUF_SIZE`, on natural numbers. -/
def execRdw (i : Half) (s : State) : Result :=
  whileRunning s
    (if operandNat i + 1 ≥ Config.bufSize then raise .indexOutOfRange s
    else loadHalf s (operandNat i) fun w => .next (setDout s w))

end Sys2Proof.Machine
end

