-- ==== Sys2Proof/Machine/Constants.lean ====
section
/-! DEFINITION. The fixed parameters of the block (spec/00_scope.md R5). The open ones are in Sys2Proof/Config.lean. -/

namespace Sys2Proof.Machine

/-- `CRC_SEED`. -/
def crcSeed : Half := 0xFFFF

/-- `CRC_POLY`. -/
def crcPoly : Half := 0xA001

/-- `CRC_TABLE_ENTRIES`. -/
def crcTableEntries : Nat := 256

/-- `RESP_READ10_LEN`: bytes in the response to a read of ten registers. -/
def respRead10Len : Nat := 25

/-- `CMD_FRAME_LEN`: bytes in every command frame. -/
def cmdFrameLen : Nat := 8

/-- `ADDR_MIN`. -/
def addrMin : Byte := 0x01

/-- `ADDR_MAX`. -/
def addrMax : Byte := 0xF8

/-- `ADDR_DEFAULT`. -/
def addrDefault : Byte := 0xF8

/-- `FC_READ` (the request's code is the spec's choice D11; log entry 10). -/
def fcRead : Byte := 0x04

end Sys2Proof.Machine
end

