-- ==== Sys2Proof/Machine/Codec.lean ====
section
/-! DEFINITION. The frame codec: the layouts of frames (spec/30_encoding.md Part A), the pure functions over them, and the commands APPEND, VALIDATE, STRIP, BLDRD, BLDWR (spec/42_codec.md). -/

namespace Sys2Proof.Machine

/-! ### Pure functions -/

/-- `append_crc(s)` (R90): `s`, then its CRC, low byte first. -/
def appendCrc (s : List Byte) : List Byte := s ++ littleEndian (crc16 s)

/-- `validate(s)` (R92): longer than 2 bytes, and the last two bytes are the CRC of the bytes before them, low byte
first. -/
def validate (s : List Byte) : Bool :=
  if s.length ≤ 2 then false
  else s.drop (s.length - 2) == littleEndian (crc16 (s.take (s.length - 2)))

/-- The body of a command frame: its bytes 0 to 5 (R45). -/
def commandBody (a f : Byte) (r v : Half) : List Byte := [a, f] ++ bigEndian r ++ bigEndian v

/-- `build_frame(a, f, r, v)` (R95, R45). -/
def buildFrame (a f : Byte) (r v : Half) : List Byte := appendCrc (commandBody a f r v)

/-- The body of the response to a read of registers (R48, R49): address, function code, byte-count, and the data words,
most significant byte first (R33). -/
def responseBody (a f : Byte) (words : List Half) : List Byte :=
  [a, f, BitVec.ofNat 8 (2 * words.length)] ++ words.flatMap bigEndian

/-- The response to a read of registers, as the sensor sends it (R48, R49). The block never builds one. -/
def readResponse (a f : Byte) (words : List Half) : List Byte := appendCrc (responseBody a f words)

/-! ### Fields of a frame (R52)

Each is defined only where the frame has the bytes named. -/

/-- The 16-bit field at offsets `k`, `k + 1`, most significant byte first. -/
def frameHalf (s : List Byte) (k : Nat) : Option Half :=
  match s[k]?, s[k + 1]? with
  | some h, some l => some (be16 h l)
  | _, _ => none

/-- Byte 0. -/
def frameAddress (s : List Byte) : Option Byte := s[0]?

/-- Byte 1. -/
def frameFunction (s : List Byte) : Option Byte := s[1]?

/-- Bytes 2 and 3 of a command frame. -/
def frameRegister (s : List Byte) : Option Half := frameHalf s 2

/-- Bytes 4 and 5 of a command frame: the value, or the register count. -/
def frameValue (s : List Byte) : Option Half := frameHalf s 4

/-- Byte 2 of a read response. -/
def frameByteCount (s : List Byte) : Option Byte := s[2]?

/-- Data word `k` of a read response (R33). -/
def frameDataWord (s : List Byte) (k : Nat) : Option Half := frameHalf s (3 + 2 * k)

/-- The CRC field as a CRC value: the last two bytes, low byte first (R32, R50). -/
def frameCrc (s : List Byte) : Option Half :=
  if s.length < 2 then none
  else
    match s[s.length - 2]?, s[s.length - 1]? with
    | some l, some h => some (be16 h l)
    | _, _ => none

/-! ### Commands -/

/-- `APPEND` (R91): the two bytes of the current frame's CRC after it, `LEN <- LEN + 2`; `BufferOverflow` when
`LEN + 2 > BUF_SIZE`. -/
def execAppend (s : State) : Result :=
  whileRunning s
    (if s.len + 2 > Config.bufSize then raise .bufferOverflow s
    else loadFrame s fun frame =>
      storeBytes s s.len (littleEndian (crc16 frame)) fun t => .next (setLen t (s.len + 2)))

/-- `VALIDATE` (R93): `OK <- validate(BUF[0..LEN))`. -/
def execValidate (s : State) : Result :=
  whileRunning s (loadFrame s fun frame => .next (setOk s (validate frame)))

/-- `STRIP` (R94): a valid frame loses its CRC field, `LEN <- LEN - 2` and `OK <- 1`; otherwise `OK <- 0`. -/
def execStrip (s : State) : Result :=
  whileRunning s
    (loadFrame s fun frame =>
      if validate frame then .next (setLen (setOk s true) (s.len - 2)) else .next (setOk s false))

/-- Put a command frame at the start of the buffer and make it current (R96, R97). -/
def placeFrame (s : State) (frame : List Byte) : Result :=
  storeBytes s 0 frame fun t => .next (setLen t cmdFrameLen)

/-- `BLDRD a, r, c` (R96): `BUF[0..8) <- build_frame(a, FC_READ, r, c)`, `LEN <- 8`; `a` as given, not clamped. -/
def execBldrd (a : Byte) (r c : Half) (s : State) : Result :=
  whileRunning s (placeFrame s (buildFrame a fcRead r c))

/-- `BLDWR a, r, v` (R97): `BUF[0..8) <- build_frame(a, FC_WRITE, r, v)`, `LEN <- 8`. -/
def execBldwr (a : Byte) (r v : Half) (s : State) : Result :=
  whileRunning s (placeFrame s (buildFrame a Config.fcWrite r v))

end Sys2Proof.Machine
end

