-- ==== Sys2Proof/Machine/Setup.lean ====
section
/-! DEFINITION. The configuration command INIT (spec/43_config.md). -/

namespace Sys2Proof.Machine

/-- `clamp_addr(a)` (R100): `a` when `0x01 <= a <= 0xF8`, and 0xF8 otherwise, 0x00 included. -/
def clampAddr (a : Byte) : Byte := if addrMin ≤ a ∧ a ≤ addrMax then a else addrDefault

/-- `INIT a` (R101): `DEV_ADDR <- clamp_addr(a)`, and nothing else. -/
def execInit (a : Byte) (s : State) : Result := whileRunning s (.next (setDevAddr s (clampAddr a)))

end Sys2Proof.Machine
end

