-- ==== Sys2Proof/Machine/Dispatch.lean ====
section
/-! DEFINITION. One arm per command. -/

namespace Sys2Proof.Machine

def exec (i : Instr) (s : State) : Host.Outcome State Fault Refusal :=
  match i with
  | .nop => Sys2Proof.Machine.execNop s
  | .clr => Sys2Proof.Machine.execClr s
  | .push b => Sys2Proof.Machine.execPush b s
  | .setlen n => Sys2Proof.Machine.execSetlen n s
  | .wrb k b => Sys2Proof.Machine.execWrb k b s
  | .rdb k => Sys2Proof.Machine.execRdb k s
  | .rdw k => Sys2Proof.Machine.execRdw k s
  | .crc => Sys2Proof.Machine.execCrc s
  | .append => Sys2Proof.Machine.execAppend s
  | .validate => Sys2Proof.Machine.execValidate s
  | .strip => Sys2Proof.Machine.execStrip s
  | .init a => Sys2Proof.Machine.execInit a s
  | .bldrd a r c => Sys2Proof.Machine.execBldrd a r c s
  | .bldwr a r v => Sys2Proof.Machine.execBldwr a r v s

end Sys2Proof.Machine
end

