-- ==== Sys2Proof/Machine/Flags.lean ====
section
/-! DEFINITION. The status register and the register port (spec/10_state.md R16 to R18, R23; codes of spec/60_exceptions.md R106). -/

namespace Sys2Proof.Machine

/-- The code a fault latches in `STATUS.ERR` (R106). -/
def errCode : ErrCode → BitVec 3
  | .noFault => 0
  | .illegalCommand => 1
  | .bufferOverflow => 2
  | .indexOutOfRange => 3

/-- `STATUS.OK` as a bit (R17). -/
def okBit (b : Bool) : BitVec 1 := if b then 1 else 0

/-- `STATUS` (R16): bits [7:4] hardwired to zero, bits [3:1] `ERR`, bit 0 `OK`. -/
def status (s : State) : Byte := (0 : BitVec 4) ++ errCode s.err ++ okBit s.ok

/-- The register port (R23): what the host reads at register number `n`, with zeros above the register's width. -/
def portRead (s : State) (n : Nat) : Half :=
  match n with
  | 0 => (status s).setWidth 16
  | 1 => BitVec.ofNat 16 s.len
  | 2 => s.crcOut
  | 3 => s.dout
  | 4 => s.devAddr.setWidth 16
  | _ => 0

/-- The width of register number `n` on the port (R23). -/
def portWidth (n : Nat) : Nat :=
  match n with
  | 0 => 8
  | 1 => Config.lenW
  | 2 => 16
  | 3 => 16
  | 4 => 8
  | _ => 0

/-- The host reads register number `n`: no side effect on the block (R23, R37). -/
def hostReads (n : Nat) (s : State) : State := setPortOut s (portRead s n)

end Sys2Proof.Machine
end

