-- ==== Sys2Proof/Machine/Step.lean ====
section
/-! DEFINITION. One step: the host's next event, acted on (spec/70_reset_and_hazards.md R130, R131; the order of evaluation of spec/60_exceptions.md R111). -/

namespace Sys2Proof.Machine

/-- One step. A command word is decoded and executed, an illegal one raises `IllegalCommand` (R57, R58); both have no
effect while `ERR` is not 0 (R109). When the host does nothing more, nothing happens (R4; log entry 2). -/
def step (s : State) : Host.Outcome State Fault Refusal :=
  match takeEvent s with
  | none => .next s
  | some (.command w, t) =>
    match decode w with
    | .command i => exec i t
    | .illegal _ => raise .illegalCommand t
  | some (.reset, t) => .next (assertReset t)
  | some (.readPort n, t) => .next (hostReads n t)

/-- The state with the word `w` of `nbits` bits as the next command the host presents. -/
def State.withFetchWord (s : State) (nbits w : Nat) : State := presentWord s (tableWord nbits w)

end Sys2Proof.Machine
end

