-- ==== Sys2Proof/WellFormed.lean ====
section
/-! DEFINITION. The operand ranges of the written form (spec/30_encoding.md R62, R63). A term of `Instr` needs no check: each operand's type is its field (R59), and every operand value is encodable. Which command words are legal is `legalWord` of Sys2Proof/Decode.lean (R56 to R58). -/

namespace Sys2Proof

/-- A number that an 8-bit operand may have (R62: 0..255). -/
def isByte (n : Nat) : Bool := decide (n < 256)

/-- A number that a 16-bit operand may have (R62: 0..65535). -/
def isHalf (n : Nat) : Bool := decide (n < 65536)

/-- The operand ranges of R62, and for the pseudo-commands the lengths of R63. An index or a length above the buffer is
in range: it faults when the command runs. -/
def Written.inRange : Written → Bool
  | .nop => true
  | .clr => true
  | .push b => isByte b
  | .setlen n => isHalf n
  | .wrb i b => isHalf i && isByte b
  | .rdb i => isHalf i
  | .rdw i => isHalf i
  | .crc => true
  | .append => true
  | .validate => true
  | .strip => true
  | .init a => isByte a
  | .bldrd a r c => isByte a && isHalf r && isHalf c
  | .bldwr a r v => isByte a && isHalf r && isHalf v
  | .load bs => decide (bs.length ≤ Config.bufSize) && bs.all isByte
  | .frame bs => decide (bs.length + 2 ≤ Config.bufSize) && bs.all isByte
  | .check bs => decide (bs.length ≤ Config.bufSize) && bs.all isByte

end Sys2Proof
end

