-- ==== Sys2Proof/Machine/Assembler.lean ====
section
/-! DEFINITION. The written form of commands (spec/30_encoding.md Part C): what each line and each pseudo-command stands for (R62, R63), and reading a line of text. None of it is the block's: it is how a host writes a command sequence down. -/

namespace Sys2Proof.Machine

/-! ### What a line stands for -/

/-- `LOAD b0 ... b(n-1)` (R63): `CLR`, then `PUSH` of each byte in order. -/
def loadCommands (bytes : List Nat) : List Instr :=
  .clr :: bytes.map fun b => .push (BitVec.ofNat 8 b)

/-- The commands a line stands for, its operands being in range (R62, R63). -/
def expandInRange : Written → List Instr
  | .nop => [.nop]
  | .clr => [.clr]
  | .push b => [.push (BitVec.ofNat 8 b)]
  | .setlen n => [.setlen (BitVec.ofNat 16 n)]
  | .wrb i b => [.wrb (BitVec.ofNat 16 i) (BitVec.ofNat 8 b)]
  | .rdb i => [.rdb (BitVec.ofNat 16 i)]
  | .rdw i => [.rdw (BitVec.ofNat 16 i)]
  | .crc => [.crc]
  | .append => [.append]
  | .validate => [.validate]
  | .strip => [.strip]
  | .init a => [.init (BitVec.ofNat 8 a)]
  | .bldrd a r c => [.bldrd (BitVec.ofNat 8 a) (BitVec.ofNat 16 r) (BitVec.ofNat 16 c)]
  | .bldwr a r v => [.bldwr (BitVec.ofNat 8 a) (BitVec.ofNat 16 r) (BitVec.ofNat 16 v)]
  | .load bs => loadCommands bs
  | .frame bs => loadCommands bs ++ [.append]
  | .check bs => loadCommands bs ++ [.validate]

/-- The commands a line stands for, or none when an operand is out of range (R62). -/
def expand (w : Written) : Option (List Instr) := if w.inRange then some (expandInRange w) else none

/-! ### Reading a line (R62) -/

/-- A character between the words of a line. -/
def isBlank (c : Char) : Bool := c == ' ' || c == '\t'

/-- A digit of a hexadecimal or decimal number. -/
def digitValue (c : Char) : Option Nat :=
  if '0'.toNat ≤ c.toNat ∧ c.toNat ≤ '9'.toNat then some (c.toNat - '0'.toNat)
  else if 'A'.toNat ≤ c.toNat ∧ c.toNat ≤ 'F'.toNat then some (c.toNat - 'A'.toNat + 10)
  else if 'a'.toNat ≤ c.toNat ∧ c.toNat ≤ 'f'.toNat then some (c.toNat - 'a'.toNat + 10)
  else none

/-- Digits of the given base, most significant first, after a number read so far. -/
def readDigits (base : Nat) : Nat → List Char → Option Nat
  | n, [] => some n
  | n, c :: cs =>
    match digitValue c with
    | some d => if d < base then readDigits base (base * n + d) cs else none
    | none => none

/-- A number as R7 writes it: `0x` and hexadecimal digits, or decimal digits. -/
def readNumber : List Char → Option Nat
  | [] => none
  | '0' :: 'x' :: c :: cs => readDigits 16 0 (c :: cs)
  | c :: cs => readDigits 10 0 (c :: cs)

/-- Cut a text at every character that `sep` names. -/
def splitAtChars (sep : Char → Bool) : List Char → List (List Char)
  | [] => [[]]
  | c :: cs =>
    match sep c, splitAtChars sep cs with
    | true, rest => [] :: rest
    | false, w :: rest => (c :: w) :: rest
    | false, [] => [[c]]

/-- A text without the blanks around it. -/
def trimBlanks (cs : List Char) : List Char := ((cs.dropWhile isBlank).reverse.dropWhile isBlank).reverse

/-- All the numbers, or none if one is not a number. -/
def readNumbers : List (List Char) → Option (List Nat)
  | [] => some []
  | w :: ws =>
    match readNumber w, readNumbers ws with
    | some n, some ns => some (n :: ns)
    | _, _ => none

/-- Operands separated by commas (R62). -/
def readOperands (cs : List Char) : Option (List Nat) :=
  if (trimBlanks cs).isEmpty then some [] else readNumbers ((splitAtChars (· == ',') cs).map trimBlanks)

/-- Bytes separated by spaces (R63). -/
def readBytes (cs : List Char) : Option (List Nat) :=
  readNumbers ((splitAtChars isBlank cs).filter fun w => !w.isEmpty)

/-- A mnemonic with its operands, in the order of R62's table. -/
def writtenCommand (mnemonic : List Char) (operands : List Nat) : Option Written :=
  match mnemonic, operands with
  | ['N', 'O', 'P'], [] => some .nop
  | ['C', 'L', 'R'], [] => some .clr
  | ['P', 'U', 'S', 'H'], [b] => some (.push b)
  | ['S', 'E', 'T', 'L', 'E', 'N'], [n] => some (.setlen n)
  | ['W', 'R', 'B'], [i, b] => some (.wrb i b)
  | ['R', 'D', 'B'], [i] => some (.rdb i)
  | ['R', 'D', 'W'], [i] => some (.rdw i)
  | ['C', 'R', 'C'], [] => some .crc
  | ['A', 'P', 'P', 'E', 'N', 'D'], [] => some .append
  | ['V', 'A', 'L', 'I', 'D', 'A', 'T', 'E'], [] => some .validate
  | ['S', 'T', 'R', 'I', 'P'], [] => some .strip
  | ['I', 'N', 'I', 'T'], [a] => some (.init a)
  | ['B', 'L', 'D', 'R', 'D'], [a, r, c] => some (.bldrd a r c)
  | ['B', 'L', 'D', 'W', 'R'], [a, r, v] => some (.bldwr a r v)
  | _, _ => none

/-- A pseudo-command with its bytes (R63). -/
def writtenPseudo (mnemonic : List Char) (bytes : List Nat) : Option Written :=
  match mnemonic with
  | ['L', 'O', 'A', 'D'] => some (.load bytes)
  | ['F', 'R', 'A', 'M', 'E'] => some (.frame bytes)
  | ['C', 'H', 'E', 'C', 'K'] => some (.check bytes)
  | _ => none

/-- What a line of text holds. -/
inductive Line where
  /-- No command: only blanks or a comment. -/
  | blank
  /-- One command, or one pseudo-command. -/
  | written (w : Written)
  /-- Neither: not a line of the assembler. -/
  | malformed
  deriving DecidableEq, Repr

/-- Read one line (R62): `;` starts a comment, one command per line. -/
def readLine (text : List Char) : Line :=
  let cs := trimBlanks (text.takeWhile (· != ';'))
  if cs.isEmpty then .blank
  else
    let mnemonic := cs.takeWhile fun c => !isBlank c
    let rest := cs.drop mnemonic.length
    match (readOperands rest).bind (writtenCommand mnemonic), (readBytes rest).bind (writtenPseudo mnemonic) with
    | some w, _ => .written w
    | none, some w => .written w
    | none, none => .malformed

end Sys2Proof.Machine
end

