-- ==== Sys2Proof/Safety.lean ====
section
/-! DEFINITION. What counts as a safe state and a safe run, in the terms the statements use. -/

namespace Sys2Proof.Machine

/-- What holds in every reachable state (spec/10_state.md R25): `LEN` and `DEV_ADDR` are in their ranges, and the buffer
is in its canonical form. R25's other two facts, `STATUS[7:4] = 0` and `ERR` at most 3, hold of every term of `State`. -/
abbrev Inv (s : State) : Prop :=
  s.len ≤ Config.bufSize ∧ 0x01 ≤ s.devAddr ∧ s.devAddr ≤ 0xF8 ∧ Memory.wf s.buf = true

/-- The block executes commands (spec/60_exceptions.md R109: a claim about a run takes `ERR = 0` throughout as a
premise), and `LEN` is a length it can have. -/
abbrev Running (s : State) : Prop := s.err = .noFault ∧ s.len ≤ Config.bufSize

/-- Commands executed in order, as a finite run of R130 presents them: each sees the state the one before left. -/
def execAll : List Instr → State → Result
  | [], s => .next s
  | i :: is, s =>
    match exec i s with
    | .next t => execAll is t
    | .fault r => .fault r
    | .refused r => .refused r

end Sys2Proof.Machine
end

