-- ==== Sys2Proof/Certificates/Slice0/Obligations.lean ====
section
/-! DEFINITION. The statements for the provers, from the numbered rules of the spec. Each docstring names the rule. -/

open Sys2Proof Sys2Proof.Machine

/-! A word, a reset or a register read "presented next" is the first event of the list `pending`. The list is how the
model holds R131's three ways of the host, and `portOut` is where it keeps what a read gave: both are the model's own (log
entries 1 and 12), and no statement rests on their values at reset. -/

/-! ### Terms the statements share -/

/-- The 14 opcodes with their formats (R56). -/
def Sys2Proof.Statements.assigned : List (Byte × Format) :=
  [(0x00, .N), (0x10, .N), (0x11, .B), (0x12, .I), (0x13, .IB), (0x14, .I), (0x15, .I), (0x20, .N), (0x21, .N),
   (0x22, .N), (0x23, .N), (0x30, .B), (0x31, .F), (0x32, .F)]

/-- The opcode is one of the 14 (R58). -/
def Sys2Proof.Statements.isAssigned (op : Byte) : Bool := Statements.assigned.any fun row => row.1 == op

/-- The first index of `BUF` a command stores to, from the state before it (R24, R36). -/
def Sys2Proof.Statements.storedAt (i : Instr) (s : State) : Nat :=
  match i with
  | .push _ => s.len
  | .wrb k _ => k.toNat
  | .append => s.len
  | .nop | .clr | .setlen _ | .rdb _ | .rdw _ | .crc | .validate | .strip | .init _ | .bldrd _ _ _ | .bldwr _ _ _ => 0

/-- How many bytes of `BUF` a command stores (R24, R36). -/
def Sys2Proof.Statements.storedCount : Instr → Nat
  | .push _ => 1
  | .wrb _ _ => 1
  | .append => 2
  | .bldrd _ _ _ => 8
  | .bldwr _ _ _ => 8
  | .nop | .clr | .setlen _ | .rdb _ | .rdw _ | .crc | .validate | .strip | .init _ => 0

/-- The command may write `LEN` (R24). -/
def Sys2Proof.Statements.writesLen : Instr → Bool
  | .clr | .push _ | .setlen _ | .append | .strip | .bldrd _ _ _ | .bldwr _ _ _ => true
  | .nop | .wrb _ _ | .rdb _ | .rdw _ | .crc | .validate | .init _ => false

/-- The command may write `CRC_OUT` (R24). -/
def Sys2Proof.Statements.writesCrcOut : Instr → Bool
  | .crc => true
  | _ => false

/-- The command may write `DOUT` (R24). -/
def Sys2Proof.Statements.writesDout : Instr → Bool
  | .rdb _ | .rdw _ => true
  | _ => false

/-- The command may write `DEV_ADDR` (R24). -/
def Sys2Proof.Statements.writesDevAddr : Instr → Bool
  | .init _ => true
  | _ => false

/-- The command may write `OK` (R24). -/
def Sys2Proof.Statements.writesOk : Instr → Bool
  | .validate | .strip => true
  | _ => false

/-- The fault a decoded command raises, from the state before it (R107). -/
def Sys2Proof.Statements.ownFault (i : Instr) (s : State) : ErrCode :=
  match i with
  | .push _ => if s.len = Config.bufSize then .bufferOverflow else .noFault
  | .append => if s.len + 2 > Config.bufSize then .bufferOverflow else .noFault
  | .setlen n => if n.toNat > Config.bufSize then .indexOutOfRange else .noFault
  | .wrb k _ => if k.toNat ≥ Config.bufSize then .indexOutOfRange else .noFault
  | .rdb k => if k.toNat ≥ Config.bufSize then .indexOutOfRange else .noFault
  | .rdw k => if k.toNat + 1 ≥ Config.bufSize then .indexOutOfRange else .noFault
  | _ => .noFault

/-- Bit `k` of byte `j` changed. -/
def Sys2Proof.Statements.flipBit (s : List Byte) (j k : Nat) : List Byte := s.set j (s.getD j 0 ^^^ (1 <<< k))

/-- The 25-byte response of vector V10 (spec/95_test_vectors.md). -/
def Sys2Proof.Statements.responseV10 : List Byte :=
  [0xF8, 0x04, 0x14, 0x08, 0xFC, 0x00, 0x00, 0x05, 0xDC, 0x00, 0x00, 0x0B, 0xB8, 0x00, 0x00, 0x03, 0xE8, 0x01, 0xF4, 0x00,
   0x5F, 0x00, 0x00, 0x9B, 0x88]

/-! ### Encoding -/

/-- R60: decoding is the condition list of the rule, in its fields, and decoding the encoding of a command gives it
back. -/
def Obligations.DecodingIsTheFieldConditionsAndInvertsEncoding : Prop :=
  (∀ (w : CommandWord) (op a : Byte) (r v : Half), op = opField w → a = aField w → r = rField w → v = vField w →
    (decode w).instr? =
      if op = 0x00 ∧ a = 0 ∧ r = 0 ∧ v = 0 then some .nop
      else if op = 0x10 ∧ a = 0 ∧ r = 0 ∧ v = 0 then some .clr
      else if op = 0x11 ∧ r = 0 ∧ v = 0 then some (.push a)
      else if op = 0x12 ∧ a = 0 ∧ v = 0 then some (.setlen r)
      else if op = 0x13 ∧ v = 0 then some (.wrb r a)
      else if op = 0x14 ∧ a = 0 ∧ v = 0 then some (.rdb r)
      else if op = 0x15 ∧ a = 0 ∧ v = 0 then some (.rdw r)
      else if op = 0x20 ∧ a = 0 ∧ r = 0 ∧ v = 0 then some .crc
      else if op = 0x21 ∧ a = 0 ∧ r = 0 ∧ v = 0 then some .append
      else if op = 0x22 ∧ a = 0 ∧ r = 0 ∧ v = 0 then some .validate
      else if op = 0x23 ∧ a = 0 ∧ r = 0 ∧ v = 0 then some .strip
      else if op = 0x30 ∧ r = 0 ∧ v = 0 then some (.init a)
      else if op = 0x31 then some (.bldrd a r v)
      else if op = 0x32 then some (.bldwr a r v)
      else none) ∧
  ∀ i : Instr, decode (encode i) = .command i

/-- Section B.4: a word that decodes to a command is that command's encoding, so each command has one word. -/
def Obligations.DecodedWordsAreTheEncodingsOfTheirCommands : Prop :=
  ∀ (w : CommandWord) (i : Instr), decode w = .command i → encode i = w

/-- R54: where the four fields sit, as numbers, and what the low 40 bits of a build command are. -/
def Obligations.FieldsSitAtTheirFixedPositions : Prop :=
  (∀ w : CommandWord, (opField w).toNat = w.toNat / 2 ^ 40 ∧ (aField w).toNat = w.toNat / 2 ^ 32 % 2 ^ 8 ∧
    (rField w).toNat = w.toNat / 2 ^ 16 % 2 ^ 16 ∧ (vField w).toNat = w.toNat % 2 ^ 16) ∧
  ∀ (a : Byte) (r v : Half),
    (encode (.bldrd a r v)).toNat % 2 ^ 40 = a.toNat * 2 ^ 32 + r.toNat * 2 ^ 16 + v.toNat ∧
    (encode (.bldwr a r v)).toNat % 2 ^ 40 = a.toNat * 2 ^ 32 + r.toNat * 2 ^ 16 + v.toNat

/-- The opcode table of section B.2: a word is a row's command exactly when its masked bits are the row's. -/
def Obligations.TableRowsSelectExactlyTheirCommand : Prop :=
  ∀ (w : CommandWord) (row : OpcodeRow), row ∈ opcodeTable →
    (row.hits w = true ↔ ∃ i, decode w = .command i ∧ i.mnemonic = row.mnemonic)

/-- R57: a reserved field that is not zero makes the word illegal: `IllegalCommand`, and nothing else. -/
def Obligations.NonZeroReservedFieldRaisesIllegalCommand : Prop :=
  (∀ (w : CommandWord) (f : Format) (s : State) (rest : List HostEvent), (opField w, f) ∈ Statements.assigned →
    reservedZero f w = false → s.err = .noFault → s.pending = .command w :: rest →
    step s = .next { s with pending := rest, err := .illegalCommand }) ∧
  decode 0x200000000001 = .illegal .reservedNotZero

/-- R58: the unassigned opcodes, and that every word either is a command or raises `IllegalCommand`; only the all-zero
word is `NOP`. -/
def Obligations.UnassignedOpcodeRaisesIllegalCommand : Prop :=
  (∀ (w : CommandWord) (s : State) (rest : List HostEvent), Statements.isAssigned (opField w) = false →
    s.err = .noFault → s.pending = .command w :: rest →
    step s = .next { s with pending := rest, err := .illegalCommand }) ∧
  (∀ op : Byte, Statements.isAssigned op = false ↔
    (0x01 ≤ op ∧ op ≤ 0x0F) ∨ (0x16 ≤ op ∧ op ≤ 0x1F) ∨ (0x24 ≤ op ∧ op ≤ 0x2F) ∨ 0x33 ≤ op) ∧
  ((List.range 256).filter fun n => !Statements.isAssigned (BitVec.ofNat 8 n)).length = 242 ∧
  (∀ w : CommandWord, decode w = .command .nop ↔ w = 0x000000000000) ∧
  ∀ w : CommandWord, (∃ i, decode w = .command i) ∨
    ∀ (s : State) (rest : List HostEvent), s.err = .noFault → s.pending = .command w :: rest →
      step s = .next { s with pending := rest, err := .illegalCommand }

/-- Words of vector V22, one for each family and some illegal ones. -/
def Obligations.SampleWordsDecode : Prop :=
  decode 0x000000000000 = .command .nop ∧ decode 0x11FF00000000 = .command (.push 0xFF) ∧
  decode 0x13A500100000 = .command (.wrb 16 0xA5) ∧ decode 0x150000030000 = .command (.rdw 3) ∧
  decode 0x200000000000 = .command .crc ∧ decode 0x230000000000 = .command .strip ∧
  decode 0x30F800000000 = .command (.init 0xF8) ∧ decode 0x31F80000000A = .command (.bldrd 0xF8 0x0000 10) ∧
  decode 0x320100020005 = .command (.bldwr 0x01 0x0002 0x0005) ∧
  decode 0x040000000000 = .illegal .unassignedOpcode ∧ decode 0x1201000A0000 = .illegal .reservedNotZero

/-! ### The step -/

/-- A step with a legal command word presented next is `exec` of the decoded command, the event taken from the host's
list. The list is the model's own (log entry 1). -/
def Obligations.StepRunsTheDecodedCommand : Prop :=
  ∀ (s : State) (w : CommandWord) (i : Instr) (rest : List HostEvent), s.pending = .command w :: rest →
    decode w = .command i → step s = exec i { s with pending := rest }

/-- R111: the order of evaluation of a presented word. -/
def Obligations.WordsAreEvaluatedInTheStatedOrder : Prop :=
  ∀ (s : State) (w : CommandWord) (rest : List HostEvent), s.pending = .command w :: rest →
    (s.err ≠ .noFault → step s = .next { s with pending := rest }) ∧
    (s.err = .noFault → ∀ why, decode w = .illegal why →
      step s = .next { s with pending := rest, err := .illegalCommand }) ∧
    (s.err = .noFault → ∀ i, decode w = .command i → Statements.ownFault i s ≠ .noFault →
      step s = .next { s with pending := rest, err := Statements.ownFault i s }) ∧
    (s.err = .noFault → s.len ≤ Config.bufSize → ∀ i, decode w = .command i → Statements.ownFault i s = .noFault →
      ∃ t, step s = .next t ∧ exec i { s with pending := rest } = .next t ∧ t.err = .noFault)

/-- R107: the exact condition of each fault, on natural numbers; no other command and no other condition raises
one. -/
def Obligations.FaultsAreRaisedExactlyOnTheirConditions : Prop :=
  (∀ (i : Instr) (s : State), Running s → ∃ t, exec i s = .next t ∧ t.err = Statements.ownFault i s) ∧
  ∀ (w : CommandWord) (why : IllegalWord) (s : State) (rest : List HostEvent), s.err = .noFault →
    s.pending = .command w :: rest → decode w = .illegal why →
    ∃ t, step s = .next t ∧ t.err = .illegalCommand

/-- R108: a fault writes its code to `STATUS.ERR` and makes no other change. -/
def Obligations.FaultEntryChangesOnlyTheErrorField : Prop :=
  (∀ (i : Instr) (s t : State), s.err = .noFault → exec i s = .next t → t.err ≠ .noFault →
    t = { s with err := t.err } ∧ (status t).extractLsb' 1 3 = errCode t.err) ∧
  ∀ (w : CommandWord) (why : IllegalWord) (s t : State) (rest : List HostEvent), s.err = .noFault →
    s.pending = .command w :: rest → decode w = .illegal why → step s = .next t →
    t = { s with pending := rest, err := .illegalCommand } ∧ (status t).extractLsb' 1 3 = 1

/-- R109: while `ERR` is not 0 every word, legal or not, is ignored; the registers stay readable (what a read gives stands
in the model's `portOut`, log entry 12). -/
def Obligations.StoppedBlockIgnoresEveryWord : Prop :=
  (∀ (s : State) (w : CommandWord) (rest : List HostEvent), s.err ≠ .noFault → s.pending = .command w :: rest →
    step s = .next { s with pending := rest }) ∧
  (∀ (i : Instr) (s : State), s.err ≠ .noFault → exec i s = .next s) ∧
  ∀ (s : State) (n : Nat) (rest : List HostEvent), s.err ≠ .noFault → s.pending = .readPort n :: rest →
    step s = .next { s with pending := rest, portOut := portRead s n }

/-- R110: no step but a reset clears `ERR` or changes the code it holds; a reset clears it and sets every other register
to its reset value. -/
def Obligations.OnlyResetClearsTheErrorField : Prop :=
  (∀ s t : State, s.err ≠ .noFault → (∀ rest, s.pending ≠ .reset :: rest) → step s = .next t → t.err = s.err) ∧
  ∀ (s : State) (rest : List HostEvent), s.pending = .reset :: rest →
    ∃ t, step s = .next t ∧ t.err = .noFault ∧ t.len = 0 ∧ t.crcOut = 0xFFFF ∧ t.dout = 0x0000 ∧ t.devAddr = 0xF8 ∧
      t.ok = false ∧ ∀ j, byteAt t j = Config.resetByte t.resets j

/-! ### Reset and the register port -/

/-- R22: the state after reset. Each byte of `BUF` is a free value, of which nothing is known. -/
def Obligations.StateAfterResetIsTheTable : Prop :=
  State.reset.len = 0 ∧ State.reset.crcOut = 0xFFFF ∧ State.reset.dout = 0x0000 ∧ State.reset.devAddr = 0xF8 ∧
  State.reset.ok = false ∧ State.reset.err = .noFault ∧ status State.reset = 0x00 ∧
  crc16 (currentFrame State.reset) = State.reset.crcOut ∧
  ∀ j, byteAt State.reset j = Config.resetByte State.reset.resets j

/-- R120: a reset asserted in any state, a fault state included, puts every register in the state of R22. -/
def Obligations.ResetPutsEveryRegisterInItsResetState : Prop :=
  ∀ (s : State) (rest : List HostEvent), s.pending = .reset :: rest →
    ∃ t, step s = .next t ∧ t.len = 0 ∧ t.crcOut = 0xFFFF ∧ t.dout = 0x0000 ∧ t.devAddr = 0xF8 ∧ status t = 0x00 ∧
      t.ok = false ∧ t.err = .noFault ∧ ∀ j, byteAt t j = Config.resetByte t.resets j

/-- Section 1 of 70_reset_and_hazards.md, in the model's own terms (log entries 3 and 4): each reset takes the next free
content of `BUF`; between resets a byte nothing has written keeps its value, and no byte written becomes unwritten. -/
def Obligations.UnwrittenBytesKeepTheirValueUntilReset : Prop :=
  (∀ (s t : State) (rest : List HostEvent), s.pending = .reset :: rest → step s = .next t → t.resets = s.resets + 1) ∧
  ∀ s t : State, (∀ rest, s.pending ≠ .reset :: rest) → step s = .next t →
    t.resets = s.resets ∧ ∀ j, Memory.lookup t.buf j = none → Memory.lookup s.buf j = none ∧ byteAt t j = byteAt s j

/-- R23: the register port. A read changes nothing but what the host got, which stands in the model's `portOut` (log
entry 12). -/
def Obligations.RegisterPortShowsTheRegisters : Prop :=
  (∀ s : State, portRead s 0 = (status s).setWidth 16 ∧
    (s.len ≤ Config.bufSize → (portRead s 1).toNat = s.len ∧ s.len < 2 ^ Config.lenW) ∧
    portRead s 2 = s.crcOut ∧ portRead s 3 = s.dout ∧ portRead s 4 = s.devAddr.setWidth 16 ∧
    ∀ n, 5 ≤ n → portRead s n = 0) ∧
  (portWidth 0 = 8 ∧ portWidth 1 = Config.lenW ∧ portWidth 2 = 16 ∧ portWidth 3 = 16 ∧ portWidth 4 = 8) ∧
  ∀ (s : State) (n : Nat) (rest : List HostEvent), s.pending = .readPort n :: rest →
    step s = .next { s with pending := rest, portOut := portRead s n }

/-- R16 and R18: the layout of `STATUS`, the codes `ERR` takes, and the reset value. -/
def Obligations.StatusRegisterLayout : Prop :=
  (∀ s : State, (status s).getLsbD 0 = s.ok ∧ (status s).extractLsb' 1 3 = errCode s.err ∧
    (status s).extractLsb' 4 4 = 0) ∧
  errCode .noFault = 0 ∧ errCode .illegalCommand = 1 ∧ errCode .bufferOverflow = 2 ∧ errCode .indexOutOfRange = 3 ∧
  (∀ e, errCode e ≤ 3) ∧ status State.reset = 0x00

/-! ### Invariants and runs -/

/-- R25's step, over every state: one step keeps what holds in every reachable state, and the canonical form of the
buffer's list of written bytes, which is the model's own (log entry 5). -/
def Obligations.EveryStepKeepsTheInvariant : Prop :=
  ∀ s t : State, Inv s → step s = .next t →
    Inv t ∧ (status t).extractLsb' 4 4 = 0 ∧ errCode t.err ≤ 3

/-- R25's start: the state after reset, with any events of the host still to come. -/
def Obligations.ResetStateMeetsTheInvariant : Prop :=
  ∀ events : List HostEvent, Inv { State.reset with pending := events }

/-- Section 5 of 70_reset_and_hazards.md: the block cannot hang: a step answers a next state, never a fault or a refusal,
wherever `LEN` is a length it can have. -/
def Obligations.EveryStepAnswersANextState : Prop :=
  ∀ s : State, s.len ≤ Config.bufSize → ∃ t, step s = .next t

/-- The invariants of R25, which the spec marks as derived from R22 and R24, and section 5 of 70_reset_and_hazards.md: a
run of any length, from any state in the invariant and whatever the host does, completes and ends in the invariant; from
reset on, R25's four facts hold in every state reached. -/
def Obligations.EveryRunCompletesInTheInvariant : Prop :=
  (∀ (n : Nat) (s : State), Inv s → ∃ t : State, Host.Core.run Sys2Proof.core n s = .next t ∧ Inv t) ∧
  ∀ (n : Nat) (events : List HostEvent), ∃ t : State,
    Host.Core.run Sys2Proof.core n { State.reset with pending := events } = .next t ∧
    t.len ≤ Config.bufSize ∧ 0x01 ≤ t.devAddr ∧ t.devAddr ≤ 0xF8 ∧ (status t).extractLsb' 4 4 = 0 ∧
    (t.err = .noFault ∨ t.err = .illegalCommand ∨ t.err = .bufferOverflow ∨ t.err = .indexOutOfRange) ∧
    (status t).extractLsb' 1 3 ≤ 3

/-! ### What commands read and write -/

/-- The write columns of R24's table, every byte of `BUF` outside the ones a command stores to, and `ERR`, which only a
fault of the command's own writes, and only when it is 0. -/
def Obligations.CommandsWriteOnlyTheirOwnState : Prop :=
  ∀ (i : Instr) (s t : State), exec i s = .next t →
    (∀ j, (j < Statements.storedAt i s ∨ Statements.storedAt i s + Statements.storedCount i ≤ j) →
      byteAt t j = byteAt s j) ∧
    (Statements.writesLen i = false → t.len = s.len) ∧
    (Statements.writesCrcOut i = false → t.crcOut = s.crcOut) ∧
    (Statements.writesDout i = false → t.dout = s.dout) ∧
    (Statements.writesDevAddr i = false → t.devAddr = s.devAddr) ∧
    (Statements.writesOk i = false → t.ok = s.ok) ∧
    t.err = (if s.err = .noFault then Statements.ownFault i s else s.err) ∧
    t.resets = s.resets ∧ t.pending = s.pending ∧ t.portOut = s.portOut

/-- "No command reads it" of `CRC_OUT`, `DOUT`, `DEV_ADDR` and `OK` (sections 2 and 3 of 10_state.md): two runs of a
command that differ in these registers only agree in the buffer, `LEN` and `ERR`, and each of the four is either written
with the same value in both or kept in both. -/
def Obligations.ResultRegistersAreNeverInputs : Prop :=
  ∀ (i : Instr) (s t : State) (c d : Half) (a : Byte) (o : Bool), exec i s = .next t →
    ∃ u, exec i { s with crcOut := c, dout := d, devAddr := a, ok := o } = .next u ∧
      u.buf = t.buf ∧ u.len = t.len ∧ u.err = t.err ∧
      (u.crcOut = t.crcOut ∨ (t.crcOut = s.crcOut ∧ u.crcOut = c)) ∧
      (u.dout = t.dout ∨ (t.dout = s.dout ∧ u.dout = d)) ∧
      (u.devAddr = t.devAddr ∨ (t.devAddr = s.devAddr ∧ u.devAddr = a)) ∧
      (u.ok = t.ok ∨ (t.ok = s.ok ∧ u.ok = o))

/-- Purity (section 4 of 10_state.md, section 2 of 40_crc16.md): the CRC and the verdict of a frame depend on its bytes
alone, whatever else the two states hold. -/
def Obligations.CrcAndVerdictDependOnTheFrameAlone : Prop :=
  ∀ s₁ s₂ : State, Running s₁ → Running s₂ → currentFrame s₁ = currentFrame s₂ →
    (∃ t₁ t₂, exec .crc s₁ = .next t₁ ∧ exec .crc s₂ = .next t₂ ∧ t₁.crcOut = t₂.crcOut) ∧
    ∃ t₁ t₂, exec .validate s₁ = .next t₁ ∧ exec .validate s₂ = .next t₂ ∧ t₁.ok = t₂.ok

/-- Section 3 of 20_memory.md: repeating a read command with no write between changes nothing more. -/
def Obligations.RepeatedReadsGiveTheSameResult : Prop :=
  ∀ (i : Instr) (s t : State), (i = .crc ∨ i = .validate ∨ (∃ k, i = .rdb k) ∨ ∃ k, i = .rdw k) →
    exec i s = .next t → exec i t = .next t

/-- R34: `RDW` is big-endian; a byte access and a 16-bit access see the same bytes; at the CRC field of a valid frame it
reads the CRC with its bytes swapped. -/
def Obligations.ByteAndHalfwordAccessesAgree : Prop :=
  (∀ (s : State) (i : Half), Running s → i.toNat + 1 < Config.bufSize →
    exec (.rdw i) s = .next { s with dout := be16 (byteAt s i.toNat) (byteAt s (i.toNat + 1)) }) ∧
  (∀ (s : State) (i : Half) (b : Byte), Running s → i.toNat < Config.bufSize →
    ∃ t, exec (.wrb i b) s = .next t ∧
      (i.toNat + 1 < Config.bufSize → ∃ u, exec (.rdw i) t = .next u ∧ hi8 u.dout = b) ∧
      (0 < i.toNat → ∃ u, exec (.rdw (i - 1)) t = .next u ∧ lo8 u.dout = b)) ∧
  ∀ s : State, Running s → validate (currentFrame s) = true →
    ∃ t, exec (.rdw (BitVec.ofNat 16 (s.len - 2))) s = .next t ∧
      t.dout = be16 (lo8 (crc16 ((currentFrame s).take (s.len - 2)))) (hi8 (crc16 ((currentFrame s).take (s.len - 2))))

/-- Section 6 of 20_memory.md: a read returns the latest write to the same byte, and a write to another byte does not
matter to it. -/
def Obligations.ReadReturnsTheLatestWrite : Prop :=
  ∀ (s : State) (i k : Half) (b : Byte), Running s → i.toNat < Config.bufSize → k.toNat < Config.bufSize →
    ∃ t u, exec (.wrb i b) s = .next t ∧ exec (.rdb k) t = .next u ∧
      u.dout = if k = i then zext16 b else zext16 (byteAt s k.toNat)

/-- R43: `LEN` protects nothing; `CLR`, `SETLEN` and `STRIP` change no byte, so what was stripped or cleared can be made
current again. -/
def Obligations.BytesBeyondTheLengthAreKept : Prop :=
  (∀ (s : State) (i : Half) (b : Byte), Running s → i.toNat < Config.bufSize →
    (∃ t, exec (.rdb i) s = .next t ∧ t.err = .noFault) ∧ ∃ t, exec (.wrb i b) s = .next t ∧ t.err = .noFault) ∧
  (∀ (i : Instr) (s t : State), (i = .clr ∨ i = .strip ∨ ∃ n, i = .setlen n) → exec i s = .next t →
    ∀ j, byteAt t j = byteAt s j) ∧
  (∀ s : State, Running s → validate (currentFrame s) = true → ∃ t, exec .strip s = .next t ∧
    byteAt t t.len = lo8 (crc16 (currentFrame t)) ∧ byteAt t (t.len + 1) = hi8 (crc16 (currentFrame t))) ∧
  ∀ s : State, Running s → ∃ t u, exec .clr s = .next t ∧ exec (.setlen (BitVec.ofNat 16 s.len)) t = .next u ∧
    currentFrame u = currentFrame s

/-! ### The CRC -/

/-- R70: every entry of the table, which the model holds as R71 lists it, is generated from the polynomial by the eight
rounds of R70; its length and the spot values. -/
def Obligations.ListedTableIsGeneratedFromThePolynomial : Prop :=
  (∀ k : Byte, crcTableAt k =
    (fun c : Half => if c.getLsbD 0 then (c >>> 1) ^^^ 0xA001 else c >>> 1)^[8] (k.setWidth 16)) ∧
  crcTable.length = 256 ∧ crcTableAt 0 = 0x0000 ∧ crcTableAt 1 = 0xC0C1 ∧ crcTableAt 2 = 0xC181 ∧
  crcTableAt 7 = 0xC241 ∧ crcTableAt 128 = 0xA001 ∧ crcTableAt 255 = 0x4040

/-- R72 and R73: `crc16` folds the bytes, first to last, from the seed, by one table lookup each. -/
def Obligations.CrcFoldsTheBytesFromTheSeed : Prop :=
  (∀ s : List Byte, crc16 s =
    s.foldl (fun (crc : Half) (b : Byte) => (crc >>> 8) ^^^ crcTableAt ((crc ^^^ b.setWidth 16).extractLsb' 0 8)) 0xFFFF) ∧
  crc16 [] = 0xFFFF

/-- The table-driven function equals the bit-serial one (R74, which the spec marks as derived from R70, R72, R73). -/
def Obligations.TableDrivenCrcEqualsBitSerialCrc : Prop :=
  ∀ s : List Byte, crc16 s =
    s.foldl (fun (crc : Half) (b : Byte) =>
      (fun c : Half => if c.getLsbD 0 then (c >>> 1) ^^^ 0xA001 else c >>> 1)^[8] (crc ^^^ b.setWidth 16)) 0xFFFF

/-- The facts of R78, which the spec marks as derived from R70, R72, R73: the check value, the zero residue, the
detection of every single-bit change, and that the CRC is not injective. -/
def Obligations.CrcCheckValueResidueAndErrorDetection : Prop :=
  crc16 [0x31, 0x32, 0x33, 0x34, 0x35, 0x36, 0x37, 0x38, 0x39] = 0x4B37 ∧
  (∀ s : List Byte, crc16 (s ++ [lo8 (crc16 s), hi8 (crc16 s)]) = 0x0000) ∧
  (∀ s : List Byte, validate s = true ↔ 2 < s.length ∧ crc16 s = 0x0000) ∧
  (∀ (s : List Byte) (j k : Nat), j < s.length → k < 8 → crc16 (Statements.flipBit s j k) ≠ crc16 s) ∧
  ∃ s s' : List Byte, s ≠ s' ∧ crc16 s = crc16 s'

/-- R77: the `CRC` command. -/
def Obligations.CrcCommandLatchesTheCrcOfTheFrame : Prop :=
  encode .crc = 0x200000000000 ∧
  (∀ s : State, s.err ≠ .noFault → exec .crc s = .next s) ∧
  (∀ s : State, Running s → exec .crc s = .next { s with crcOut := crc16 (currentFrame s) }) ∧
  (∀ w : CommandWord, opField w = 0x20 → w ≠ 0x200000000000 → decode w = .illegal .reservedNotZero) ∧
  (∀ s : State, Running s → s.len = 0 → exec .crc s = .next { s with crcOut := 0xFFFF }) ∧
  (∀ s : State, Running s → validate (currentFrame s) = true → exec .crc s = .next { s with crcOut := 0x0000 }) ∧
  (∀ s t : State, exec .crc s = .next t → exec .crc t = .next t) ∧
  (∀ s : State, Running s → currentFrame s = [0xF8, 0x04, 0x00, 0x00, 0x00, 0x0A] →
    exec .crc s = .next { s with crcOut := 0x6464 }) ∧
  crc16 [0xF8] = 0xC2BE ∧ crc16 [0xF8, 0x04] = 0xB343 ∧ crc16 [0xF8, 0x04, 0x00] = 0xF1F2 ∧
  crc16 [0xF8, 0x04, 0x00, 0x00] = 0x8570 ∧ crc16 [0xF8, 0x04, 0x00, 0x00, 0x00] = 0xE484

/-! ### The buffer commands -/

/-- R80: `NOP`. -/
def Obligations.NopChangesNothing : Prop :=
  encode .nop = 0x000000000000 ∧ (∀ s : State, exec .nop s = .next s) ∧
  ∀ w : CommandWord, opField w = 0x00 → w ≠ 0x000000000000 → decode w = .illegal .reservedNotZero

/-- R81: `CLR`. -/
def Obligations.ClrEmptiesTheFrame : Prop :=
  encode .clr = 0x100000000000 ∧
  (∀ s : State, s.err ≠ .noFault → exec .clr s = .next s) ∧
  (∀ s : State, s.err = .noFault → exec .clr s = .next { s with len := 0 }) ∧
  (∀ s : State, s.len = 0 → exec .clr s = .next s) ∧
  ∀ s t : State, exec .clr s = .next t → ∀ j, byteAt t j = byteAt s j

/-- R82: `PUSH`. -/
def Obligations.PushAppendsOneByte : Prop :=
  (∀ b : Byte, (encode (.push b)).toNat = 0x11 * 2 ^ 40 + b.toNat * 2 ^ 32) ∧ encode (.push 0xF8) = 0x11F800000000 ∧
  (∀ (b : Byte) (s : State), s.err ≠ .noFault → exec (.push b) s = .next s) ∧
  (∀ (b : Byte) (s : State), s.err = .noFault → s.len = Config.bufSize →
    exec (.push b) s = .next { s with err := .bufferOverflow }) ∧
  (∀ (b : Byte) (s : State), s.err = .noFault → s.len < Config.bufSize →
    ∃ t, exec (.push b) s = .next t ∧ t = { s with buf := t.buf, len := s.len + 1 } ∧ byteAt t s.len = b ∧
      ∀ j, j ≠ s.len → byteAt t j = byteAt s j) ∧
  (∀ (b : Byte) (s : State), s.err = .noFault → s.len + 1 = Config.bufSize →
    ∃ t, exec (.push b) s = .next t ∧ t.len = Config.bufSize ∧ t.err = .noFault) ∧
  ∃ t, exec (.push 0xAA) State.reset = .next t ∧ byteAt t 0 = 0xAA ∧ t.len = 1

/-- R83: `SETLEN`. One equation for both outcomes: with `BUF_SIZE = 65535` no `n` is above it (V20). -/
def Obligations.SetlenSetsTheLength : Prop :=
  (∀ n : Half, (encode (.setlen n)).toNat = 0x12 * 2 ^ 40 + n.toNat * 2 ^ 16) ∧
  encode (.setlen 6) = 0x120000060000 ∧
  (∀ (n : Half) (s : State), s.err ≠ .noFault → exec (.setlen n) s = .next s) ∧
  (∀ (n : Half) (s : State), s.err = .noFault → exec (.setlen n) s =
    .next (if n.toNat > Config.bufSize then { s with err := .indexOutOfRange }
      else { s with len := n.toNat % 2 ^ Config.lenW })) ∧
  (∀ n : Half, n.toNat ≤ Config.bufSize → n.toNat % 2 ^ Config.lenW = n.toNat) ∧
  (∀ s : State, exec (.setlen 0) s = exec .clr s) ∧
  (∀ (n : Half) (s : State), s.err = .noFault → n.toNat ≤ Config.bufSize →
    ∃ t u, exec (.setlen n) s = .next t ∧ exec .crc t = .next u ∧ u.crcOut = crc16 (bytesFrom s 0 n.toNat)) ∧
  ∀ s : State, s.err = .noFault → currentFrame s = [0x01, 0x06, 0x00, 0x02, 0x00, 0x05, 0xE8, 0x09] →
    ∃ t, exec (.setlen 6) s = .next t ∧ t.len = 6 ∧ currentFrame t = [0x01, 0x06, 0x00, 0x02, 0x00, 0x05]

/-- R84: `WRB`. -/
def Obligations.WrbWritesOneByte : Prop :=
  (∀ (i : Half) (b : Byte), (encode (.wrb i b)).toNat = 0x13 * 2 ^ 40 + b.toNat * 2 ^ 32 + i.toNat * 2 ^ 16) ∧
  encode (.wrb 5 0x04) = 0x130400050000 ∧
  (∀ (i : Half) (b : Byte) (s : State), s.err ≠ .noFault → exec (.wrb i b) s = .next s) ∧
  (∀ (i : Half) (b : Byte) (s : State), s.err = .noFault → i.toNat ≥ Config.bufSize →
    exec (.wrb i b) s = .next { s with err := .indexOutOfRange }) ∧
  (∀ (i : Half) (b : Byte) (s : State), s.err = .noFault → i.toNat < Config.bufSize →
    ∃ t, exec (.wrb i b) s = .next t ∧ t = { s with buf := t.buf } ∧ byteAt t i.toNat = b ∧
      ∀ j, j ≠ i.toNat → byteAt t j = byteAt s j) ∧
  ∀ s : State, s.err = .noFault → byteAt s 5 = 0x05 →
    ∃ t, exec (.wrb 5 0x04) s = .next t ∧ byteAt t 5 = 0x04 ∧ ∀ j, j ≠ 5 → byteAt t j = byteAt s j

/-- R85: `RDB`. -/
def Obligations.RdbReadsOneByte : Prop :=
  (∀ i : Half, (encode (.rdb i)).toNat = 0x14 * 2 ^ 40 + i.toNat * 2 ^ 16) ∧ encode (.rdb 2) = 0x140000020000 ∧
  (∀ (i : Half) (s : State), s.err ≠ .noFault → exec (.rdb i) s = .next s) ∧
  (∀ (i : Half) (s : State), s.err = .noFault → i.toNat ≥ Config.bufSize →
    exec (.rdb i) s = .next { s with err := .indexOutOfRange }) ∧
  (∀ (i : Half) (s : State), s.err = .noFault → i.toNat < Config.bufSize →
    ∃ t, exec (.rdb i) s = .next t ∧ t = { s with dout := t.dout } ∧ hi8 t.dout = 0 ∧
      lo8 t.dout = byteAt s i.toNat) ∧
  ∀ s : State, s.err = .noFault → currentFrame s = Statements.responseV10 →
    exec (.rdb 2) s = .next { s with dout := 0x0014 }

/-- R86: `RDW`. -/
def Obligations.RdwReadsTwoBytesBigEndian : Prop :=
  (∀ i : Half, (encode (.rdw i)).toNat = 0x15 * 2 ^ 40 + i.toNat * 2 ^ 16) ∧ encode (.rdw 3) = 0x150000030000 ∧
  (∀ (i : Half) (s : State), s.err ≠ .noFault → exec (.rdw i) s = .next s) ∧
  (∀ (i : Half) (s : State), s.err = .noFault → i.toNat + 1 ≥ Config.bufSize →
    exec (.rdw i) s = .next { s with err := .indexOutOfRange }) ∧
  (∀ s : State, s.err = .noFault → exec (.rdw 65535) s = .next { s with err := .indexOutOfRange }) ∧
  (∀ (i : Half) (s : State), s.err = .noFault → i.toNat + 1 < Config.bufSize →
    ∃ t, exec (.rdw i) s = .next t ∧ t = { s with dout := t.dout } ∧ hi8 t.dout = byteAt s i.toNat ∧
      lo8 t.dout = byteAt s (i.toNat + 1)) ∧
  (∀ s : State, Running s → validate (currentFrame s) = true →
    ∃ t, exec (.rdw (BitVec.ofNat 16 (s.len - 2))) s = .next t ∧
      be16 (lo8 t.dout) (hi8 t.dout) = crc16 ((currentFrame s).take (s.len - 2))) ∧
  ∀ s : State, s.err = .noFault → currentFrame s = Statements.responseV10 →
    exec (.rdw 3) s = .next { s with dout := 0x08FC }

/-! ### The codec -/

/-- `append_crc` (R90, which the spec marks as derived from R50 and R32). -/
def Obligations.AppendCrcPutsTheLowByteFirst : Prop :=
  ∀ s : List Byte, appendCrc s = s ++ [lo8 (crc16 s), hi8 (crc16 s)] ∧ (appendCrc s).length = s.length + 2

/-- R91: `APPEND`. -/
def Obligations.AppendAddsTheCrcField : Prop :=
  encode .append = 0x210000000000 ∧
  (∀ s : State, s.err ≠ .noFault → exec .append s = .next s) ∧
  (∀ s : State, s.err = .noFault → s.len + 2 > Config.bufSize →
    exec .append s = .next { s with err := .bufferOverflow }) ∧
  (∀ s : State, s.err = .noFault → s.len + 2 ≤ Config.bufSize →
    ∃ t, exec .append s = .next t ∧ t = { s with buf := t.buf, len := s.len + 2 } ∧
      byteAt t s.len = lo8 (crc16 (currentFrame s)) ∧ byteAt t (s.len + 1) = hi8 (crc16 (currentFrame s)) ∧
      (∀ j, j ≠ s.len → j ≠ s.len + 1 → byteAt t j = byteAt s j) ∧ currentFrame t = appendCrc (currentFrame s)) ∧
  (∀ s : State, s.err = .noFault → s.len = 0 → ∃ t u, exec .append s = .next t ∧ byteAt t 0 = 0xFF ∧
    byteAt t 1 = 0xFF ∧ t.len = 2 ∧ exec .validate t = .next u ∧ u.ok = false) ∧
  (∀ s : State, s.err = .noFault → s.len + 2 = Config.bufSize →
    ∃ t, exec .append s = .next t ∧ t.len = Config.bufSize ∧ t.err = .noFault) ∧
  (∀ s : State, s.err = .noFault → s.len + 4 ≤ Config.bufSize →
    ∃ t u, exec .append s = .next t ∧ exec .append t = .next u ∧ byteAt u (s.len + 2) = 0x00 ∧
      byteAt u (s.len + 3) = 0x00) ∧
  ∀ s : State, s.err = .noFault → currentFrame s = [0x01, 0x06, 0x00, 0x02, 0x00, 0x05] →
    ∃ t, exec .append s = .next t ∧ currentFrame t = [0x01, 0x06, 0x00, 0x02, 0x00, 0x05, 0xE8, 0x09] ∧ t.len = 8

/-- R92: `validate`. What the rule adds as derived, that it means a zero CRC of the whole frame, is with R78's facts
(`CrcCheckValueResidueAndErrorDetection`). -/
def Obligations.ValidateComparesTheCrcFieldAlone : Prop :=
  ∀ s : List Byte, (s.length ≤ 2 → validate s = false) ∧
    (2 < s.length →
      (validate s = true ↔
        s[s.length - 2]? = some (lo8 (crc16 (s.take (s.length - 2)))) ∧
        s[s.length - 1]? = some (hi8 (crc16 (s.take (s.length - 2))))))

/-- R93: `VALIDATE`. -/
def Obligations.ValidateReportsTheVerdictInOk : Prop :=
  encode .validate = 0x220000000000 ∧
  (∀ s : State, s.err ≠ .noFault → exec .validate s = .next s) ∧
  (∀ s : State, Running s → exec .validate s = .next { s with ok := validate (currentFrame s) }) ∧
  (∀ s : State, s.err = .noFault → s.len ≤ 2 → exec .validate s = .next { s with ok := false }) ∧
  (∃ s t : State, Running s ∧ s.len = 3 ∧ exec .validate s = .next t ∧ t.ok = true) ∧
  (∀ s t : State, exec .validate s = .next t → exec .validate t = .next t) ∧
  ∀ s : State, s.err = .noFault → currentFrame s = [0xF8, 0x04, 0x00, 0x00, 0x00, 0x0A, 0x64, 0x64] →
    exec .validate s = .next { s with ok := true } ∧
    ∃ t u, exec (.wrb 5 0x0B) s = .next t ∧ exec .validate t = .next u ∧ u.ok = false

/-- R94: `STRIP`. -/
def Obligations.StripShortensAValidFrame : Prop :=
  encode .strip = 0x230000000000 ∧
  (∀ s : State, s.err ≠ .noFault → exec .strip s = .next s) ∧
  (∀ s : State, Running s → validate (currentFrame s) = true →
    exec .strip s = .next { s with ok := true, len := s.len - 2 } ∧ 1 ≤ s.len - 2) ∧
  (∀ s : State, Running s → validate (currentFrame s) = false → exec .strip s = .next { s with ok := false }) ∧
  (∀ s : State, s.err = .noFault → s.len ≤ 2 → exec .strip s = .next { s with ok := false }) ∧
  (∀ s : State, Running s → validate (currentFrame s) = true →
    ∃ t u, exec .strip s = .next t ∧ exec .crc t = .next u ∧ u.crcOut = be16 (byteAt s (s.len - 1)) (byteAt s (s.len - 2)) ∧
      byteAt t t.len = byteAt s (s.len - 2) ∧ byteAt t (t.len + 1) = byteAt s (s.len - 1)) ∧
  (∀ s : State, Running s → validate (currentFrame s) = true →
    ∃ t u, exec .strip s = .next t ∧ exec (.setlen (BitVec.ofNat 16 s.len)) t = .next u ∧
      currentFrame u = currentFrame s) ∧
  ∀ s : State, s.err = .noFault → currentFrame s = Statements.responseV10 →
    exec .strip s = .next { s with ok := true, len := 23 }

/-- R95 and R45: the layout of a command frame, byte by byte and as one 64-bit number. What R95 adds as derived, that the
frame validates, is with R98 (`CodecIsSelfConsistentAndDetectsBitErrors`). -/
def Obligations.CommandFramesHaveTheStatedLayout : Prop :=
  ∀ (a f : Byte) (r v : Half) (c : Half), c = crc16 [a, f, hi8 r, lo8 r, hi8 v, lo8 v] →
    buildFrame a f r v = [a, f, hi8 r, lo8 r, hi8 v, lo8 v, lo8 c, hi8 c] ∧ (buildFrame a f r v).length = 8 ∧
    (buildFrame a f r v).foldl (fun n b => n * 256 + b.toNat) 0 =
      a.toNat * 2 ^ 56 + f.toNat * 2 ^ 48 + r.toNat * 2 ^ 32 + v.toNat * 2 ^ 16 + (lo8 c).toNat * 2 ^ 8 +
        (hi8 c).toNat

/-- R96: `BLDRD`. -/
def Obligations.BldrdBuildsAReadFrame : Prop :=
  (∀ (a : Byte) (r c : Half), (encode (.bldrd a r c)).toNat =
    0x31 * 2 ^ 40 + a.toNat * 2 ^ 32 + r.toNat * 2 ^ 16 + c.toNat) ∧
  encode (.bldrd 0xF8 0x0000 10) = 0x31F80000000A ∧
  (∀ w : CommandWord, opField w = 0x31 → decode w = .command (.bldrd (aField w) (rField w) (vField w))) ∧
  (∀ (a : Byte) (r c : Half) (s : State), s.err ≠ .noFault → exec (.bldrd a r c) s = .next s) ∧
  (∀ (a : Byte) (r c : Half) (s : State), s.err = .noFault →
    ∃ t, exec (.bldrd a r c) s = .next t ∧ t = { s with buf := t.buf, len := 8 } ∧
      currentFrame t = buildFrame a 0x04 r c ∧ ∀ j, 8 ≤ j → byteAt t j = byteAt s j) ∧
  ∀ s : State, s.err = .noFault → ∃ t, exec (.bldrd 0xF8 0x0000 10) s = .next t ∧
    currentFrame t = [0xF8, 0x04, 0x00, 0x00, 0x00, 0x0A, 0x64, 0x64] ∧ t.len = 8

/-- R97: `BLDWR`. The frame is that of `BLDRD` but for byte 1 and the CRC field, and the two are equal exactly when
`FC_WRITE` is `FC_READ`; the example's frame is built exactly when `FC_WRITE` is 0x06. -/
def Obligations.BldwrBuildsAWriteFrame : Prop :=
  (∀ (a : Byte) (r v : Half), (encode (.bldwr a r v)).toNat =
    0x32 * 2 ^ 40 + a.toNat * 2 ^ 32 + r.toNat * 2 ^ 16 + v.toNat) ∧
  encode (.bldwr 0x01 0x0002 0x0005) = 0x320100020005 ∧
  (∀ w : CommandWord, opField w = 0x32 → decode w = .command (.bldwr (aField w) (rField w) (vField w))) ∧
  (∀ (a : Byte) (r v : Half) (s : State), s.err ≠ .noFault → exec (.bldwr a r v) s = .next s) ∧
  (∀ (a : Byte) (r v : Half) (s : State), s.err = .noFault →
    ∃ t, exec (.bldwr a r v) s = .next t ∧ t = { s with buf := t.buf, len := 8 } ∧
      currentFrame t = buildFrame a Config.fcWrite r v ∧ ∀ j, 8 ≤ j → byteAt t j = byteAt s j) ∧
  (∀ (a : Byte) (r v : Half) (s : State), s.err = .noFault →
    ∃ t u, exec (.bldwr a r v) s = .next t ∧ exec (.bldrd a r v) s = .next u ∧ t = { u with buf := t.buf } ∧
      (∀ j, j ≠ 1 → j ≠ 6 → j ≠ 7 → byteAt t j = byteAt u j) ∧ byteAt t 1 = Config.fcWrite ∧ byteAt u 1 = fcRead ∧
      (currentFrame t = currentFrame u ↔ Config.fcWrite = fcRead)) ∧
  ∀ s : State, s.err = .noFault → ∃ t, exec (.bldwr 0x01 0x0002 0x0005) s = .next t ∧ t.len = 8 ∧
    (Config.fcWrite = 0x06 ↔ currentFrame t = [0x01, 0x06, 0x00, 0x02, 0x00, 0x05, 0xE8, 0x09])

/-- The properties of R98, one of which the spec marks as derived (from R78): self-consistency (of the functions, and of
the commands), detection of every single-bit error, idempotence, and that built frames validate (R95, derived there). -/
def Obligations.CodecIsSelfConsistentAndDetectsBitErrors : Prop :=
  (∀ b : List Byte, 1 ≤ b.length → validate (appendCrc b) = true) ∧
  (∀ (b : List Byte) (s : State), 1 ≤ b.length → b.length + 2 ≤ Config.bufSize → s.err = .noFault →
    ∃ t, execAll (.clr :: b.map .push ++ [.append, .validate]) s = .next t ∧ t.ok = true ∧
      currentFrame t = appendCrc b) ∧
  (∀ (b : List Byte) (j k : Nat), 1 ≤ b.length → j < b.length + 2 → k < 8 →
    validate (Statements.flipBit (appendCrc b) j k) = false) ∧
  (∀ s t : State, exec .validate s = .next t → exec .validate t = .next t) ∧
  (∀ (a f : Byte) (r v : Half), validate (buildFrame a f r v) = true) ∧
  ∀ (i : Instr) (s : State), s.err = .noFault → ((∃ a r c, i = .bldrd a r c) ∨ ∃ a r v, i = .bldwr a r v) →
    ∃ t u, exec i s = .next t ∧ exec .validate t = .next u ∧ u.ok = true

/-- Section A.2 of 30_encoding.md: the layout of a read response and its length. The first clause, for any count up to 127,
is the general form that the spec marks as derived from the ten-word case (R49, from R48); beyond 127 words the byte-count
is the model's choice (log entry 20). The second clause is the ten-word response of R48. -/
def Obligations.ReadResponseHasTheStatedLayout : Prop :=
  (∀ (a f : Byte) (ws : List Half), ws.length ≤ 127 →
    (readResponse a f ws).length = 5 + 2 * ws.length ∧ frameAddress (readResponse a f ws) = some a ∧
    frameFunction (readResponse a f ws) = some f ∧
    frameByteCount (readResponse a f ws) = some (BitVec.ofNat 8 (2 * ws.length)) ∧
    (∀ k, k < ws.length → frameDataWord (readResponse a f ws) k = ws[k]?) ∧
    frameCrc (readResponse a f ws) = some (crc16 ((readResponse a f ws).take (3 + 2 * ws.length))) ∧
    validate (readResponse a f ws) = true) ∧
  ∀ (a : Byte) (ws : List Half), ws.length = 10 →
    (readResponse a 0x04 ws).length = 25 ∧ (readResponse a 0x04 ws)[2]? = some 0x14 ∧
    (∀ k, k < 10 → (readResponse a 0x04 ws)[3 + 2 * k]? = (ws[k]?).map hi8 ∧
      (readResponse a 0x04 ws)[4 + 2 * k]? = (ws[k]?).map lo8) ∧
    (readResponse a 0x04 ws)[23]? = some (lo8 (crc16 ((readResponse a 0x04 ws).take 23))) ∧
    (readResponse a 0x04 ws)[24]? = some (hi8 (crc16 ((readResponse a 0x04 ws).take 23)))

/-- R52: the read commands give the fields of the current frame, each where the frame has its bytes. -/
def Obligations.ReadCommandsGiveTheFieldsOfTheFrame : Prop :=
  ∀ s : State, Running s →
    (0 < s.len → ∃ t, exec (.rdb 0) s = .next t ∧ frameAddress (currentFrame s) = some (lo8 t.dout)) ∧
    (1 < s.len → ∃ t, exec (.rdb 1) s = .next t ∧ frameFunction (currentFrame s) = some (lo8 t.dout)) ∧
    (3 < s.len → ∃ t, exec (.rdw 2) s = .next t ∧ frameRegister (currentFrame s) = some t.dout) ∧
    (5 < s.len → ∃ t, exec (.rdw 4) s = .next t ∧ frameValue (currentFrame s) = some t.dout) ∧
    (2 < s.len → ∃ t, exec (.rdb 2) s = .next t ∧ frameByteCount (currentFrame s) = some (lo8 t.dout)) ∧
    (∀ k, 4 + 2 * k < s.len → ∃ t, exec (.rdw (BitVec.ofNat 16 (3 + 2 * k))) s = .next t ∧
      frameDataWord (currentFrame s) k = some t.dout) ∧
    (2 ≤ s.len → ∃ t u, exec (.rdb (BitVec.ofNat 16 (s.len - 2))) s = .next t ∧
      exec (.rdb (BitVec.ofNat 16 (s.len - 1))) s = .next u ∧
      frameCrc (currentFrame s) = some (be16 (lo8 u.dout) (lo8 t.dout)))

/-! ### Configuration and the written form -/

/-- R100: `clamp_addr`; exactly eight values are replaced. -/
def Obligations.ClampReplacesTheIllegalAddresses : Prop :=
  (∀ a : Byte, clampAddr a = if 0x01 ≤ a ∧ a ≤ 0xF8 then a else 0xF8) ∧
  (∀ a : Byte, clampAddr a ≠ a ↔ a = 0x00 ∨ (0xF9 ≤ a ∧ a ≤ 0xFF)) ∧
  ((List.range 256).filter fun n => clampAddr (BitVec.ofNat 8 n) != BitVec.ofNat 8 n).length = 8 ∧
  clampAddr 0x00 = 0xF8 ∧ clampAddr 0xF9 = 0xF8 ∧ clampAddr 0x01 = 0x01 ∧ clampAddr 0xF8 = 0xF8

/-- R101: `INIT`. -/
def Obligations.InitSetsTheDeviceAddress : Prop :=
  (∀ a : Byte, (encode (.init a)).toNat = 0x30 * 2 ^ 40 + a.toNat * 2 ^ 32) ∧ encode (.init 0x01) = 0x300100000000 ∧
  (∀ (a : Byte) (s : State), s.err ≠ .noFault → exec (.init a) s = .next s) ∧
  (∀ (a : Byte) (s : State), s.err = .noFault →
    exec (.init a) s = .next { s with devAddr := if 0x01 ≤ a ∧ a ≤ 0xF8 then a else 0xF8 }) ∧
  ∃ t u, exec (.init 0x01) State.reset = .next t ∧ t.devAddr = 0x01 ∧ exec (.init 0xF9) t = .next u ∧ u.devAddr = 0xF8

/-- R63: what `LOAD`, `FRAME` and `CHECK` expand to, and what they leave; `CLR` and `SETLEN 0` have the same effect and
different words. -/
def Obligations.PseudoCommandsExpandAsStated : Prop :=
  (∀ bs : List Byte, expandInRange (.load (bs.map (·.toNat))) = .clr :: bs.map .push ∧
    expandInRange (.frame (bs.map (·.toNat))) = (.clr :: bs.map .push) ++ [.append] ∧
    expandInRange (.check (bs.map (·.toNat))) = (.clr :: bs.map .push) ++ [.validate] ∧
    (expandInRange (.load (bs.map (·.toNat)))).length = bs.length + 1) ∧
  (∀ (bs : List Byte) (s : State), bs.length ≤ Config.bufSize → s.err = .noFault →
    ∃ t, execAll (expandInRange (.load (bs.map (·.toNat)))) s = .next t ∧ currentFrame t = bs ∧ t.err = .noFault) ∧
  (∀ (bs : List Byte) (s : State), bs.length + 2 ≤ Config.bufSize → s.err = .noFault →
    ∃ t, execAll (expandInRange (.frame (bs.map (·.toNat)))) s = .next t ∧ currentFrame t = appendCrc bs) ∧
  (∀ (bs : List Byte) (s : State), bs.length ≤ Config.bufSize → s.err = .noFault →
    ∃ t, execAll (expandInRange (.check (bs.map (·.toNat)))) s = .next t ∧ currentFrame t = bs ∧
      t.ok = validate bs) ∧
  (∀ s : State, exec .clr s = exec (.setlen 0) s) ∧ encode .clr ≠ encode (.setlen 0)

/-- Part C of 30_encoding.md on lines the spec prints, and an operand out of range. -/
def Obligations.SampleLinesAssemble : Prop :=
  readLine ("BLDRD 0xF8, 0x0000, 10 ; 31F80000000A".toList) = .written (.bldrd 0xF8 0x0000 10) ∧
  (expand (.bldrd 0xF8 0x0000 10)).map (·.map encode) = some [0x31F80000000A] ∧
  readLine ("WRB 5, 0x04".toList) = .written (.wrb 5 4) ∧
  (expand (.wrb 5 4)).map (·.map encode) = some [0x130400050000] ∧
  readLine ("PUSH 256".toList) = .written (.push 256) ∧ expand (.push 256) = none ∧
  expand (.setlen 65535) = some [.setlen 65535] ∧ expand (.setlen 65536) = none
end

