-- ==== Sys2Proof/Laws/Config.lean ====
section
/-! SUPPORT. The ranges of the open parameters (spec/00_scope.md R5, R6), for every value of the constants without a body. -/

namespace Sys2Proof

/-- R6: the buffer holds the longest frame the source describes. -/
theorem Config.bufSize_ge : 25 ≤ Config.bufSize := by
  unfold Config.bufSize
  omega

/-- R6: every index fits a 16-bit operand. -/
theorem Config.bufSize_le : Config.bufSize ≤ 65535 := by
  have h := Config.bufSizeAbove.isLt
  unfold Config.bufSize
  omega

/-- `LEN_W` bits hold every value of `LEN` (R5). -/
theorem Config.bufSize_lt_two_pow_lenW : Config.bufSize < 2 ^ Config.lenW :=
  Nat.lt_of_succ_le (Nat.le_pow_clog (by decide) _)

/-- The register port's 16 bits hold `LEN`. -/
theorem Config.lenW_le : Config.lenW ≤ 16 :=
  (Nat.clog_le_iff_le_pow (by decide)).2 (by have h := Config.bufSize_le; omega)

/-- R83's `n[LEN_W-1:0]` is `n`, where `SETLEN n` does not fault. -/
theorem setlen_keeps_n (n : Nat) (h : n ≤ Config.bufSize) : n % 2 ^ Config.lenW = n :=
  Nat.mod_eq_of_lt (Nat.lt_of_le_of_lt h Config.bufSize_lt_two_pow_lenW)

end Sys2Proof
end

