-- ==== Sys2Proof/Laws/State.lean ====
section
/-! SUPPORT. What each register write does to each field: one lemma per field per write. -/

namespace Sys2Proof.Machine

/-! ### `setBuf` -/

@[simp] theorem setBuf_buf (s : State) (x : Memory) : (setBuf s x).buf = x := rfl
@[simp] theorem setBuf_len (s : State) (x : Memory) : (setBuf s x).len = s.len := rfl
@[simp] theorem setBuf_crcOut (s : State) (x : Memory) : (setBuf s x).crcOut = s.crcOut := rfl
@[simp] theorem setBuf_dout (s : State) (x : Memory) : (setBuf s x).dout = s.dout := rfl
@[simp] theorem setBuf_devAddr (s : State) (x : Memory) : (setBuf s x).devAddr = s.devAddr := rfl
@[simp] theorem setBuf_ok (s : State) (x : Memory) : (setBuf s x).ok = s.ok := rfl
@[simp] theorem setBuf_err (s : State) (x : Memory) : (setBuf s x).err = s.err := rfl
@[simp] theorem setBuf_resets (s : State) (x : Memory) : (setBuf s x).resets = s.resets := rfl
@[simp] theorem setBuf_pending (s : State) (x : Memory) : (setBuf s x).pending = s.pending := rfl
@[simp] theorem setBuf_portOut (s : State) (x : Memory) : (setBuf s x).portOut = s.portOut := rfl

/-! ### `setLen` -/

@[simp] theorem setLen_buf (s : State) (x : Nat) : (setLen s x).buf = s.buf := rfl
@[simp] theorem setLen_len (s : State) (x : Nat) : (setLen s x).len = x := rfl
@[simp] theorem setLen_crcOut (s : State) (x : Nat) : (setLen s x).crcOut = s.crcOut := rfl
@[simp] theorem setLen_dout (s : State) (x : Nat) : (setLen s x).dout = s.dout := rfl
@[simp] theorem setLen_devAddr (s : State) (x : Nat) : (setLen s x).devAddr = s.devAddr := rfl
@[simp] theorem setLen_ok (s : State) (x : Nat) : (setLen s x).ok = s.ok := rfl
@[simp] theorem setLen_err (s : State) (x : Nat) : (setLen s x).err = s.err := rfl
@[simp] theorem setLen_resets (s : State) (x : Nat) : (setLen s x).resets = s.resets := rfl
@[simp] theorem setLen_pending (s : State) (x : Nat) : (setLen s x).pending = s.pending := rfl
@[simp] theorem setLen_portOut (s : State) (x : Nat) : (setLen s x).portOut = s.portOut := rfl

/-! ### `setCrcOut` -/

@[simp] theorem setCrcOut_buf (s : State) (x : Half) : (setCrcOut s x).buf = s.buf := rfl
@[simp] theorem setCrcOut_len (s : State) (x : Half) : (setCrcOut s x).len = s.len := rfl
@[simp] theorem setCrcOut_crcOut (s : State) (x : Half) : (setCrcOut s x).crcOut = x := rfl
@[simp] theorem setCrcOut_dout (s : State) (x : Half) : (setCrcOut s x).dout = s.dout := rfl
@[simp] theorem setCrcOut_devAddr (s : State) (x : Half) : (setCrcOut s x).devAddr = s.devAddr := rfl
@[simp] theorem setCrcOut_ok (s : State) (x : Half) : (setCrcOut s x).ok = s.ok := rfl
@[simp] theorem setCrcOut_err (s : State) (x : Half) : (setCrcOut s x).err = s.err := rfl
@[simp] theorem setCrcOut_resets (s : State) (x : Half) : (setCrcOut s x).resets = s.resets := rfl
@[simp] theorem setCrcOut_pending (s : State) (x : Half) : (setCrcOut s x).pending = s.pending := rfl
@[simp] theorem setCrcOut_portOut (s : State) (x : Half) : (setCrcOut s x).portOut = s.portOut := rfl

/-! ### `setDout` -/

@[simp] theorem setDout_buf (s : State) (x : Half) : (setDout s x).buf = s.buf := rfl
@[simp] theorem setDout_len (s : State) (x : Half) : (setDout s x).len = s.len := rfl
@[simp] theorem setDout_crcOut (s : State) (x : Half) : (setDout s x).crcOut = s.crcOut := rfl
@[simp] theorem setDout_dout (s : State) (x : Half) : (setDout s x).dout = x := rfl
@[simp] theorem setDout_devAddr (s : State) (x : Half) : (setDout s x).devAddr = s.devAddr := rfl
@[simp] theorem setDout_ok (s : State) (x : Half) : (setDout s x).ok = s.ok := rfl
@[simp] theorem setDout_err (s : State) (x : Half) : (setDout s x).err = s.err := rfl
@[simp] theorem setDout_resets (s : State) (x : Half) : (setDout s x).resets = s.resets := rfl
@[simp] theorem setDout_pending (s : State) (x : Half) : (setDout s x).pending = s.pending := rfl
@[simp] theorem setDout_portOut (s : State) (x : Half) : (setDout s x).portOut = s.portOut := rfl

/-! ### `setDevAddr` -/

@[simp] theorem setDevAddr_buf (s : State) (x : Byte) : (setDevAddr s x).buf = s.buf := rfl
@[simp] theorem setDevAddr_len (s : State) (x : Byte) : (setDevAddr s x).len = s.len := rfl
@[simp] theorem setDevAddr_crcOut (s : State) (x : Byte) : (setDevAddr s x).crcOut = s.crcOut := rfl
@[simp] theorem setDevAddr_dout (s : State) (x : Byte) : (setDevAddr s x).dout = s.dout := rfl
@[simp] theorem setDevAddr_devAddr (s : State) (x : Byte) : (setDevAddr s x).devAddr = x := rfl
@[simp] theorem setDevAddr_ok (s : State) (x : Byte) : (setDevAddr s x).ok = s.ok := rfl
@[simp] theorem setDevAddr_err (s : State) (x : Byte) : (setDevAddr s x).err = s.err := rfl
@[simp] theorem setDevAddr_resets (s : State) (x : Byte) : (setDevAddr s x).resets = s.resets := rfl
@[simp] theorem setDevAddr_pending (s : State) (x : Byte) : (setDevAddr s x).pending = s.pending := rfl
@[simp] theorem setDevAddr_portOut (s : State) (x : Byte) : (setDevAddr s x).portOut = s.portOut := rfl

/-! ### `setOk` -/

@[simp] theorem setOk_buf (s : State) (x : Bool) : (setOk s x).buf = s.buf := rfl
@[simp] theorem setOk_len (s : State) (x : Bool) : (setOk s x).len = s.len := rfl
@[simp] theorem setOk_crcOut (s : State) (x : Bool) : (setOk s x).crcOut = s.crcOut := rfl
@[simp] theorem setOk_dout (s : State) (x : Bool) : (setOk s x).dout = s.dout := rfl
@[simp] theorem setOk_devAddr (s : State) (x : Bool) : (setOk s x).devAddr = s.devAddr := rfl
@[simp] theorem setOk_ok (s : State) (x : Bool) : (setOk s x).ok = x := rfl
@[simp] theorem setOk_err (s : State) (x : Bool) : (setOk s x).err = s.err := rfl
@[simp] theorem setOk_resets (s : State) (x : Bool) : (setOk s x).resets = s.resets := rfl
@[simp] theorem setOk_pending (s : State) (x : Bool) : (setOk s x).pending = s.pending := rfl
@[simp] theorem setOk_portOut (s : State) (x : Bool) : (setOk s x).portOut = s.portOut := rfl

/-! ### `setErr` -/

@[simp] theorem setErr_buf (s : State) (x : ErrCode) : (setErr s x).buf = s.buf := rfl
@[simp] theorem setErr_len (s : State) (x : ErrCode) : (setErr s x).len = s.len := rfl
@[simp] theorem setErr_crcOut (s : State) (x : ErrCode) : (setErr s x).crcOut = s.crcOut := rfl
@[simp] theorem setErr_dout (s : State) (x : ErrCode) : (setErr s x).dout = s.dout := rfl
@[simp] theorem setErr_devAddr (s : State) (x : ErrCode) : (setErr s x).devAddr = s.devAddr := rfl
@[simp] theorem setErr_ok (s : State) (x : ErrCode) : (setErr s x).ok = s.ok := rfl
@[simp] theorem setErr_err (s : State) (x : ErrCode) : (setErr s x).err = x := rfl
@[simp] theorem setErr_resets (s : State) (x : ErrCode) : (setErr s x).resets = s.resets := rfl
@[simp] theorem setErr_pending (s : State) (x : ErrCode) : (setErr s x).pending = s.pending := rfl
@[simp] theorem setErr_portOut (s : State) (x : ErrCode) : (setErr s x).portOut = s.portOut := rfl

/-! ### `setPending` -/

@[simp] theorem setPending_buf (s : State) (x : List HostEvent) : (setPending s x).buf = s.buf := rfl
@[simp] theorem setPending_len (s : State) (x : List HostEvent) : (setPending s x).len = s.len := rfl
@[simp] theorem setPending_crcOut (s : State) (x : List HostEvent) : (setPending s x).crcOut = s.crcOut := rfl
@[simp] theorem setPending_dout (s : State) (x : List HostEvent) : (setPending s x).dout = s.dout := rfl
@[simp] theorem setPending_devAddr (s : State) (x : List HostEvent) : (setPending s x).devAddr = s.devAddr := rfl
@[simp] theorem setPending_ok (s : State) (x : List HostEvent) : (setPending s x).ok = s.ok := rfl
@[simp] theorem setPending_err (s : State) (x : List HostEvent) : (setPending s x).err = s.err := rfl
@[simp] theorem setPending_resets (s : State) (x : List HostEvent) : (setPending s x).resets = s.resets := rfl
@[simp] theorem setPending_pending (s : State) (x : List HostEvent) : (setPending s x).pending = x := rfl
@[simp] theorem setPending_portOut (s : State) (x : List HostEvent) : (setPending s x).portOut = s.portOut := rfl

/-! ### `setPortOut` -/

@[simp] theorem setPortOut_buf (s : State) (x : Half) : (setPortOut s x).buf = s.buf := rfl
@[simp] theorem setPortOut_len (s : State) (x : Half) : (setPortOut s x).len = s.len := rfl
@[simp] theorem setPortOut_crcOut (s : State) (x : Half) : (setPortOut s x).crcOut = s.crcOut := rfl
@[simp] theorem setPortOut_dout (s : State) (x : Half) : (setPortOut s x).dout = s.dout := rfl
@[simp] theorem setPortOut_devAddr (s : State) (x : Half) : (setPortOut s x).devAddr = s.devAddr := rfl
@[simp] theorem setPortOut_ok (s : State) (x : Half) : (setPortOut s x).ok = s.ok := rfl
@[simp] theorem setPortOut_err (s : State) (x : Half) : (setPortOut s x).err = s.err := rfl
@[simp] theorem setPortOut_resets (s : State) (x : Half) : (setPortOut s x).resets = s.resets := rfl
@[simp] theorem setPortOut_pending (s : State) (x : Half) : (setPortOut s x).pending = s.pending := rfl
@[simp] theorem setPortOut_portOut (s : State) (x : Half) : (setPortOut s x).portOut = x := rfl

/-! ### `assertReset` -/

@[simp] theorem assertReset_buf (s : State) : (assertReset s).buf = [] := rfl
@[simp] theorem assertReset_len (s : State) : (assertReset s).len = 0 := rfl
@[simp] theorem assertReset_crcOut (s : State) : (assertReset s).crcOut = 0xFFFF := rfl
@[simp] theorem assertReset_dout (s : State) : (assertReset s).dout = 0x0000 := rfl
@[simp] theorem assertReset_devAddr (s : State) : (assertReset s).devAddr = 0xF8 := rfl
@[simp] theorem assertReset_ok (s : State) : (assertReset s).ok = false := rfl
@[simp] theorem assertReset_err (s : State) : (assertReset s).err = .noFault := rfl
@[simp] theorem assertReset_resets (s : State) : (assertReset s).resets = s.resets + 1 := rfl
@[simp] theorem assertReset_pending (s : State) : (assertReset s).pending = s.pending := rfl
@[simp] theorem assertReset_portOut (s : State) : (assertReset s).portOut = s.portOut := rfl

end Sys2Proof.Machine
end

