-- ==== Sys2Proof/Laws/Memory.lean ====
section
/-! SUPPORT. The list of written bytes: read after write, and that every write keeps the canonical form. -/

namespace Sys2Proof.Machine

/-! ### Looking up -/

/-- A read after a write gives the byte written, and every other index looks up what it did. -/
theorem Memory.lookup_store (m : Memory) (i j : Nat) (b : Byte) :
    Memory.lookup (Memory.store m i b) j = if j = i then some b else Memory.lookup m j := by
  induction m with
  | nil => rfl
  | cons c m ih =>
    obtain ⟨a, x⟩ := c
    simp only [Memory.store]
    split
    · simp only [Memory.lookup]
    · split
      · rename_i h
        subst h
        simp only [Memory.lookup]
        split <;> rfl
      · simp only [Memory.lookup, ih]
        rename_i h1 h2
        split
        · rename_i h3
          subst h3
          rw [if_neg fun h => h2 h.symm]
        · rfl

/-- A write of adjacent bytes: index `i + k` gets byte `k`, and every other index looks up what it did. -/
theorem Memory.lookup_storeAll (bs : List Byte) (m : Memory) (i j : Nat) :
    Memory.lookup (Memory.storeAll m i bs) j =
      if i ≤ j ∧ j < i + bs.length then bs[j - i]? else Memory.lookup m j := by
  induction bs generalizing m i with
  | nil =>
    rw [if_neg (by simp only [List.length_nil]; omega)]
    rfl
  | cons b bs ih =>
    simp only [Memory.storeAll, ih, Memory.lookup_store, List.length_cons]
    by_cases h : i = j
    · subst h
      rw [if_neg (by omega), if_pos rfl, if_pos (by omega)]
      simp
    · by_cases hk : i + 1 ≤ j ∧ j < i + 1 + bs.length
      · rw [if_pos hk, if_pos (by omega), show j - i = (j - (i + 1)) + 1 by omega]
        simp
      · rw [if_neg hk, if_neg (fun e => h e.symm), if_neg (by omega)]

/-! ### The canonical form -/

theorem Memory.risingFrom_cons (lo a : Nat) (b : Byte) (m : Memory) :
    Memory.risingFrom lo ((a, b) :: m) = true ↔
      lo ≤ a ∧ a < Config.bufSize ∧ Memory.risingFrom (a + 1) m = true := by
  simp [Memory.risingFrom, and_assoc]

theorem Memory.risingFrom_mono {lo lo' : Nat} (h : lo ≤ lo') :
    ∀ m : Memory, Memory.risingFrom lo' m = true → Memory.risingFrom lo m = true
  | [], _ => rfl
  | (a, b) :: m, hm => by
    rw [Memory.risingFrom_cons] at hm ⊢
    exact ⟨h.trans hm.1, hm.2⟩

theorem Memory.risingFrom_store {i : Nat} (hi : i < Config.bufSize) (b : Byte) :
    ∀ (m : Memory) (lo : Nat), lo ≤ i → Memory.risingFrom lo m = true →
      Memory.risingFrom lo (Memory.store m i b) = true
  | [], lo, hlo, _ => (Memory.risingFrom_cons lo i b []).2 ⟨hlo, hi, rfl⟩
  | (a, x) :: m, lo, hlo, hm => by
    have hm' := (Memory.risingFrom_cons lo a x m).1 hm
    simp only [Memory.store]
    split
    · rename_i h
      exact (Memory.risingFrom_cons _ _ _ _).2 ⟨hlo, hi, (Memory.risingFrom_cons _ _ _ _).2 ⟨h, hm'.2⟩⟩
    · split
      · rename_i h
        subst h
        exact (Memory.risingFrom_cons _ _ _ _).2 ⟨hlo, hi, hm'.2.2⟩
      · exact (Memory.risingFrom_cons _ _ _ _).2
          ⟨hm'.1, hm'.2.1, Memory.risingFrom_store hi b m (a + 1) (by omega) hm'.2.2⟩

/-- One byte written inside the buffer keeps the canonical form. -/
theorem Memory.wf_store {m : Memory} {i : Nat} (hi : i < Config.bufSize) (b : Byte) (hm : Memory.wf m = true) :
    Memory.wf (Memory.store m i b) = true :=
  Memory.risingFrom_store hi b m 0 (Nat.zero_le i) hm

/-- Adjacent bytes written inside the buffer keep the canonical form. -/
theorem Memory.wf_storeAll (bs : List Byte) (m : Memory) (i : Nat) (h : i + bs.length ≤ Config.bufSize)
    (hm : Memory.wf m = true) : Memory.wf (Memory.storeAll m i bs) = true := by
  induction bs generalizing m i with
  | nil => exact hm
  | cons b bs ih =>
    simp only [List.length_cons] at h
    exact ih _ _ (by omega) (Memory.wf_store (by omega) b hm)

theorem State.reset_wf : Memory.wf State.reset.buf = true := rfl

/-! ### Bytes of the buffer -/

/-- The bytes of the buffer after a write of adjacent bytes. -/
theorem byteAt_setBuf_storeAll (s : State) (i : Nat) (bs : List Byte) (j : Nat) :
    byteAt (setBuf s (Memory.storeAll s.buf i bs)) j =
      if i ≤ j ∧ j < i + bs.length then (bs[j - i]?).getD (byteAt s j) else byteAt s j := by
  simp only [byteAt, setBuf_buf, Memory.lookup_storeAll, unwrittenByte, setBuf_resets]
  split
  · rename_i h
    rw [List.getElem?_eq_getElem (by omega)]
    rfl
  · rfl

/-- Only `buf` and `resets` decide what the buffer holds. -/
theorem byteAt_congr {s t : State} (hb : t.buf = s.buf) (hr : t.resets = s.resets) (j : Nat) :
    byteAt t j = byteAt s j := by
  simp only [byteAt, unwrittenByte, hb, hr]

@[simp] theorem byteAt_setLen (s : State) (n j : Nat) : byteAt (setLen s n) j = byteAt s j := rfl
@[simp] theorem byteAt_setCrcOut (s : State) (c : Half) (j : Nat) : byteAt (setCrcOut s c) j = byteAt s j := rfl
@[simp] theorem byteAt_setDout (s : State) (d : Half) (j : Nat) : byteAt (setDout s d) j = byteAt s j := rfl
@[simp] theorem byteAt_setDevAddr (s : State) (a : Byte) (j : Nat) : byteAt (setDevAddr s a) j = byteAt s j := rfl
@[simp] theorem byteAt_setOk (s : State) (b : Bool) (j : Nat) : byteAt (setOk s b) j = byteAt s j := rfl
@[simp] theorem byteAt_setErr (s : State) (e : ErrCode) (j : Nat) : byteAt (setErr s e) j = byteAt s j := rfl
@[simp] theorem byteAt_setPending (s : State) (p : List HostEvent) (j : Nat) : byteAt (setPending s p) j = byteAt s j := rfl
@[simp] theorem byteAt_setPortOut (s : State) (v : Half) (j : Nat) : byteAt (setPortOut s v) j = byteAt s j := rfl

/-- After a reset every byte is a fresh free value (R121). -/
@[simp] theorem byteAt_assertReset (s : State) (j : Nat) :
    byteAt (assertReset s) j = Config.resetByte (s.resets + 1) j := rfl

/-! ### Ranges of bytes -/

@[simp] theorem length_bytesFrom (s : State) (a n : Nat) : (bytesFrom s a n).length = n := by
  induction n generalizing a with
  | zero => rfl
  | succ n ih => simp [bytesFrom, ih]

/-- Byte `k` of a range is the byte at index `a + k`. -/
theorem getElem?_bytesFrom (s : State) (a n k : Nat) :
    (bytesFrom s a n)[k]? = if k < n then some (byteAt s (a + k)) else none := by
  induction n generalizing a k with
  | zero => simp [bytesFrom]
  | succ n ih =>
    cases k with
    | zero => simp [bytesFrom]
    | succ k =>
      simp only [bytesFrom, List.getElem?_cons_succ, ih, Nat.add_lt_add_iff_right]
      rw [show a + 1 + k = a + (k + 1) by omega]

/-- Two states with the same bytes in a range have the same range. -/
theorem bytesFrom_congr {s t : State} (a n : Nat) (h : ∀ j, a ≤ j → j < a + n → byteAt t j = byteAt s j) :
    bytesFrom t a n = bytesFrom s a n := by
  induction n generalizing a with
  | zero => rfl
  | succ n ih =>
    simp only [bytesFrom]
    rw [h a (by omega) (by omega), ih (a + 1) fun j h1 h2 => h j (by omega) (by omega)]

/-- A range cut in two. -/
theorem bytesFrom_add (s : State) (a m n : Nat) :
    bytesFrom s a (m + n) = bytesFrom s a m ++ bytesFrom s (a + m) n := by
  induction m generalizing a with
  | zero => simp [bytesFrom]
  | succ m ih =>
    rw [show m + 1 + n = (m + n) + 1 by omega]
    simp only [bytesFrom, List.cons_append, ih]
    rw [show a + 1 + m = a + (m + 1) by omega]

@[simp] theorem length_currentFrame (s : State) : (currentFrame s).length = s.len := length_bytesFrom s 0 s.len

/-- Byte `k` of the current frame. -/
theorem getElem?_currentFrame (s : State) (k : Nat) :
    (currentFrame s)[k]? = if k < s.len then some (byteAt s k) else none := by
  simp only [currentFrame, getElem?_bytesFrom, Nat.zero_add]

/-! ### Ranges and the current frame after a register write -/

@[simp] theorem bytesFrom_setLen (s : State) (x a n : Nat) : bytesFrom (setLen s x) a n = bytesFrom s a n :=
  bytesFrom_congr a n fun _ _ _ => rfl

@[simp] theorem bytesFrom_setCrcOut (s : State) (c : Half) (i n : Nat) : bytesFrom (setCrcOut s c) i n = bytesFrom s i n :=
  bytesFrom_congr i n fun _ _ _ => rfl

@[simp] theorem currentFrame_setCrcOut (s : State) (c : Half) : currentFrame (setCrcOut s c) = currentFrame s :=
  bytesFrom_congr 0 s.len fun _ _ _ => rfl

@[simp] theorem bytesFrom_setDout (s : State) (d : Half) (i n : Nat) : bytesFrom (setDout s d) i n = bytesFrom s i n :=
  bytesFrom_congr i n fun _ _ _ => rfl

@[simp] theorem currentFrame_setDout (s : State) (d : Half) : currentFrame (setDout s d) = currentFrame s :=
  bytesFrom_congr 0 s.len fun _ _ _ => rfl

@[simp] theorem bytesFrom_setDevAddr (s : State) (a : Byte) (i n : Nat) : bytesFrom (setDevAddr s a) i n = bytesFrom s i n :=
  bytesFrom_congr i n fun _ _ _ => rfl

@[simp] theorem currentFrame_setDevAddr (s : State) (a : Byte) : currentFrame (setDevAddr s a) = currentFrame s :=
  bytesFrom_congr 0 s.len fun _ _ _ => rfl

@[simp] theorem bytesFrom_setOk (s : State) (b : Bool) (i n : Nat) : bytesFrom (setOk s b) i n = bytesFrom s i n :=
  bytesFrom_congr i n fun _ _ _ => rfl

@[simp] theorem currentFrame_setOk (s : State) (b : Bool) : currentFrame (setOk s b) = currentFrame s :=
  bytesFrom_congr 0 s.len fun _ _ _ => rfl

@[simp] theorem bytesFrom_setErr (s : State) (e : ErrCode) (i n : Nat) : bytesFrom (setErr s e) i n = bytesFrom s i n :=
  bytesFrom_congr i n fun _ _ _ => rfl

@[simp] theorem currentFrame_setErr (s : State) (e : ErrCode) : currentFrame (setErr s e) = currentFrame s :=
  bytesFrom_congr 0 s.len fun _ _ _ => rfl

@[simp] theorem bytesFrom_setPending (s : State) (p : List HostEvent) (i n : Nat) : bytesFrom (setPending s p) i n = bytesFrom s i n :=
  bytesFrom_congr i n fun _ _ _ => rfl

@[simp] theorem currentFrame_setPending (s : State) (p : List HostEvent) : currentFrame (setPending s p) = currentFrame s :=
  bytesFrom_congr 0 s.len fun _ _ _ => rfl

@[simp] theorem bytesFrom_setPortOut (s : State) (v : Half) (i n : Nat) : bytesFrom (setPortOut s v) i n = bytesFrom s i n :=
  bytesFrom_congr i n fun _ _ _ => rfl

@[simp] theorem currentFrame_setPortOut (s : State) (v : Half) : currentFrame (setPortOut s v) = currentFrame s :=
  bytesFrom_congr 0 s.len fun _ _ _ => rfl

/-- A shorter length makes the first bytes of the frame current. -/
theorem currentFrame_setLen {s : State} {n : Nat} (h : n ≤ s.len) :
    currentFrame (setLen s n) = (currentFrame s).take n := by
  obtain ⟨k, hk⟩ := Nat.exists_eq_add_of_le h
  simp only [currentFrame, setLen_len, bytesFrom_setLen, hk, bytesFrom_add]
  simp

/-- The current frame after bytes are written at its end and made current. -/
theorem currentFrame_append (s : State) (bs : List Byte) :
    currentFrame (setLen (setBuf s (Memory.storeAll s.buf s.len bs)) (s.len + bs.length)) = currentFrame s ++ bs := by
  apply List.ext_getElem?
  intro k
  simp only [getElem?_currentFrame, List.getElem?_append, length_currentFrame, byteAt_setLen, setLen_len,
    byteAt_setBuf_storeAll]
  by_cases h1 : k < s.len
  · rw [if_pos (by omega), if_pos h1, if_neg (by omega), if_pos h1]
  · by_cases h2 : k < s.len + bs.length
    · rw [if_pos h2, if_neg h1, if_pos (by omega), List.getElem?_eq_getElem (by omega)]
      rfl
    · rw [if_neg h2, if_neg h1, List.getElem?_eq_none (by omega)]

/-- The current frame after bytes are written at the start of the buffer and made current. -/
theorem currentFrame_placed (s : State) (bs : List Byte) :
    currentFrame (setLen (setBuf s (Memory.storeAll s.buf 0 bs)) bs.length) = bs := by
  apply List.ext_getElem?
  intro k
  simp only [getElem?_currentFrame, byteAt_setLen, setLen_len, byteAt_setBuf_storeAll]
  by_cases h : k < bs.length
  · rw [if_pos h, if_pos (by omega), Nat.sub_zero, List.getElem?_eq_getElem h]
    rfl
  · rw [if_neg h, List.getElem?_eq_none (by omega)]

end Sys2Proof.Machine
end

