-- ==== Sys2Proof/Laws/Ops.lean ====
section
/-! SUPPORT. One lemma for each shared operation: everything it can answer. -/

namespace Sys2Proof.Machine

/-! ### The guard of every command -/

theorem whileRunning_noFault {s : State} {k : Result} (h : s.err = .noFault) : whileRunning s k = k := if_pos h

theorem whileRunning_faulted {s : State} {k : Result} (h : s.err ≠ .noFault) : whileRunning s k = .next s := if_neg h

/-- A guarded command answers a next state in two ways: the block is stopped and nothing changes, or the command runs. -/
theorem whileRunning_next {s t : State} {k : Result} :
    whileRunning s k = .next t ↔ (s.err ≠ .noFault ∧ t = s) ∨ (s.err = .noFault ∧ k = .next t) := by
  by_cases h : s.err = .noFault
  · simp [whileRunning, h]
  · simp [whileRunning, h, eq_comm]

/-! ### Fault entry -/

/-- Fault entry always answers a next state. -/
theorem raise_eq (e : ErrCode) (s : State) : raise e s = .next (if s.err = .noFault then setErr s e else s) := by
  by_cases h : s.err = .noFault
  · simp [raise, whileRunning, h]
  · simp [raise, whileRunning, h]

theorem raise_noFault {e : ErrCode} {s : State} (h : s.err = .noFault) : raise e s = .next (setErr s e) :=
  whileRunning_noFault h

/-! ### Buffer accesses -/

theorem loadByte_inside {s : State} {i : Nat} {k : Byte → Result} (h : i < Config.bufSize) :
    loadByte s i k = k (byteAt s i) := if_pos h

/-- A byte read that goes on read a byte inside the buffer. -/
theorem loadByte_next {s t : State} {i : Nat} {k : Byte → Result} :
    loadByte s i k = .next t ↔ i < Config.bufSize ∧ k (byteAt s i) = .next t := by
  by_cases h : i < Config.bufSize
  · simp [loadByte, h]
  · simp [loadByte, h]

theorem loadHalf_inside {s : State} {i : Nat} {k : Half → Result} (h : i + 1 < Config.bufSize) :
    loadHalf s i k = k (be16 (byteAt s i) (byteAt s (i + 1))) := by
  simp only [loadHalf]
  rw [loadByte_inside (by omega), loadByte_inside h]

/-- A 16-bit read that goes on read two bytes inside the buffer. -/
theorem loadHalf_next {s t : State} {i : Nat} {k : Half → Result} :
    loadHalf s i k = .next t ↔
      i + 1 < Config.bufSize ∧ k (be16 (byteAt s i) (byteAt s (i + 1))) = .next t := by
  simp only [loadHalf, loadByte_next]
  constructor
  · rintro ⟨-, h⟩
    exact h
  · rintro ⟨h1, h2⟩
    exact ⟨by omega, h1, h2⟩

theorem loadFrame_inside {s : State} {k : List Byte → Result} (h : s.len ≤ Config.bufSize) :
    loadFrame s k = k (currentFrame s) := if_pos h

/-- A command that reads the current frame and goes on has all of it inside the buffer. -/
theorem loadFrame_next {s t : State} {k : List Byte → Result} :
    loadFrame s k = .next t ↔ s.len ≤ Config.bufSize ∧ k (currentFrame s) = .next t := by
  by_cases h : s.len ≤ Config.bufSize
  · simp [loadFrame, h]
  · simp [loadFrame, h]

theorem storeBytes_inside {s : State} {i : Nat} {bs : List Byte} {k : State → Result}
    (h : i + bs.length ≤ Config.bufSize) : storeBytes s i bs k = k (setBuf s (Memory.storeAll s.buf i bs)) := if_pos h

/-- A write that goes on wrote inside the buffer; `byteAt_setBuf_storeAll` says what every byte then is, and
`Memory.wf_storeAll` that the canonical form is kept. -/
theorem storeBytes_next {s t : State} {i : Nat} {bs : List Byte} {k : State → Result} :
    storeBytes s i bs k = .next t ↔
      i + bs.length ≤ Config.bufSize ∧ k (setBuf s (Memory.storeAll s.buf i bs)) = .next t := by
  by_cases h : i + bs.length ≤ Config.bufSize
  · simp [storeBytes, h]
  · simp [storeBytes, h]

/-! ### The host's next event -/

theorem takeEvent_nil {s : State} (h : s.pending = []) : takeEvent s = none := by
  simp [takeEvent, h]

theorem takeEvent_cons {s : State} {e : HostEvent} {rest : List HostEvent} (h : s.pending = e :: rest) :
    takeEvent s = some (e, setPending s rest) := by
  simp [takeEvent, h]

@[simp] theorem takeEvent_presentWord (s : State) (w : CommandWord) :
    takeEvent (presentWord s w) = some (.command w, s) := rfl

end Sys2Proof.Machine
end

