-- ==== Sys2Proof/Laws/Codec.lean ====
section
/-! SUPPORT. What the codec's shared operation and the register port can do, and the CRC of a sequence in two parts. -/

namespace Sys2Proof.Machine

/-- A frame placed inside the buffer: the step completes, and this is its state. -/
theorem placeFrame_inside {s : State} {frame : List Byte} (h : frame.length ≤ Config.bufSize) :
    placeFrame s frame = .next (setLen (setBuf s (Memory.storeAll s.buf 0 frame)) cmdFrameLen) :=
  storeBytes_inside (by omega)

/-- All that placing a frame can answer next. -/
theorem placeFrame_next {s t : State} {frame : List Byte} :
    placeFrame s frame = .next t ↔
      frame.length ≤ Config.bufSize ∧ t = setLen (setBuf s (Memory.storeAll s.buf 0 frame)) cmdFrameLen := by
  rw [placeFrame, storeBytes_next, Nat.zero_add]
  constructor
  · rintro ⟨h, e⟩
    exact ⟨h, (Host.Outcome.next.inj e).symm⟩
  · rintro ⟨h, rfl⟩
    exact ⟨h, rfl⟩

/-- A command frame always fits (spec/00_scope.md R6). -/
theorem buildFrame_fits (a f : Byte) (r v : Half) : (buildFrame a f r v).length ≤ Config.bufSize := by
  have := Config.bufSize_ge
  show 8 ≤ Config.bufSize
  omega

/-- The CRC of two sequences one after the other goes on from the CRC of the first (R73). -/
theorem crcFold_append (crc : Half) (s t : List Byte) : crcFold crc (s ++ t) = crcFold (crcFold crc s) t := by
  induction s generalizing crc with
  | nil => rfl
  | cons b s ih => exact ih (crcStep crc b)

@[simp] theorem hostReads_portOut (n : Nat) (s : State) : (hostReads n s).portOut = portRead s n := rfl

@[simp] theorem byteAt_hostReads (n : Nat) (s : State) (j : Nat) : byteAt (hostReads n s) j = byteAt s j := rfl

end Sys2Proof.Machine
end

