-- ==== Sys2Proof/Laws/Decode.lean ====
section
/-! SUPPORT. The fields of a joined word (spec/30_encoding.md R54), and that a word is its fields. -/

namespace Sys2Proof

@[simp] theorem opField_joinFields (op a : Byte) (r v : Half) : opField (joinFields op a r v) = op := by
  ext i hi
  simp only [opField, joinFields, BitVec.getElem_extractLsb', BitVec.getLsbD_append]
  rw [if_neg (by omega), if_neg (by omega), if_neg (by omega), show 40 + i - 16 - 16 - 8 = i by omega,
    BitVec.getLsbD_eq_getElem hi]

@[simp] theorem aField_joinFields (op a : Byte) (r v : Half) : aField (joinFields op a r v) = a := by
  ext i hi
  simp only [aField, joinFields, BitVec.getElem_extractLsb', BitVec.getLsbD_append]
  rw [if_neg (by omega), if_neg (by omega), if_pos (by omega), show 32 + i - 16 - 16 = i by omega,
    BitVec.getLsbD_eq_getElem hi]

@[simp] theorem rField_joinFields (op a : Byte) (r v : Half) : rField (joinFields op a r v) = r := by
  ext i hi
  simp only [rField, joinFields, BitVec.getElem_extractLsb', BitVec.getLsbD_append]
  rw [if_neg (by omega), if_pos (by omega), show 16 + i - 16 = i by omega, BitVec.getLsbD_eq_getElem hi]

@[simp] theorem vField_joinFields (op a : Byte) (r v : Half) : vField (joinFields op a r v) = v := by
  ext i hi
  simp only [vField, joinFields, BitVec.getElem_extractLsb', BitVec.getLsbD_append]
  rw [if_pos (by omega), Nat.zero_add, BitVec.getLsbD_eq_getElem hi]

/-- A word is its four fields. -/
theorem joinFields_fields (w : CommandWord) :
    joinFields (opField w) (aField w) (rField w) (vField w) = w := by
  apply BitVec.eq_of_getLsbD_eq
  intro i hi
  simp only [joinFields, opField, aField, rField, vField, BitVec.getLsbD_append, BitVec.getLsbD_extractLsb']
  split
  · simp [*]
  · split
    · rw [show 16 + (i - 16) = i by omega]
      simp [*]
    · split
      · rw [show 32 + (i - 16 - 16) = i by omega]
        simp [*]
      · rw [show 40 + (i - 16 - 16 - 8) = i by omega]
        simp
        omega

end Sys2Proof
end

