-- ==== Sys2Proof/Laws/Operands.lean ====
section
/-! SUPPORT. Taking 16-bit fields apart and putting them together (spec/00_scope.md R7; spec/20_memory.md R31, R32). -/

namespace Sys2Proof.Machine

@[simp] theorem hi8_be16 (h l : Byte) : hi8 (be16 h l) = h := by
  apply BitVec.eq_of_getLsbD_eq
  intro i hi
  simp only [hi8, be16, BitVec.getLsbD_extractLsb', BitVec.getLsbD_append]
  rw [if_neg (by omega), show 8 + i - 8 = i by omega]
  simp [hi]

@[simp] theorem lo8_be16 (h l : Byte) : lo8 (be16 h l) = l := by
  apply BitVec.eq_of_getLsbD_eq
  intro i hi
  simp only [lo8, be16, BitVec.getLsbD_extractLsb', BitVec.getLsbD_append]
  rw [if_pos (by omega)]
  simp [hi]

@[simp] theorem be16_hi8_lo8 (w : Half) : be16 (hi8 w) (lo8 w) = w := by
  apply BitVec.eq_of_getLsbD_eq
  intro i hi
  simp only [be16, hi8, lo8, BitVec.getLsbD_extractLsb', BitVec.getLsbD_append]
  split
  · simp [*]
  · rw [show 8 + (i - 8) = i by omega]
    simp
    omega

@[simp] theorem length_bigEndian (w : Half) : (bigEndian w).length = 2 := rfl

@[simp] theorem length_littleEndian (c : Half) : (littleEndian c).length = 2 := rfl

end Sys2Proof.Machine
end

