-- ==== Sys2Proof/Laws/PerInstr.lean ====
section
/-! SUPPORT. The statement made for every instruction of the syntax: its encoding is a word that the opcode table of R56 admits, in the row of its own mnemonic. -/

namespace Sys2Proof.Laws.LegalWord

/-- The row of the opcode table that carries the command's mnemonic matches the command's encoding (R56). -/
def Statement (i : Instr) : Prop := ∃ row ∈ opcodeTable, row.mnemonic = i.mnemonic ∧ row.hits (encode i) = true

/-- Masking a word masks its fields. -/
theorem and_joinFields (op a op' a' : Byte) (r v r' v' : Half) :
    joinFields op a r v &&& joinFields op' a' r' v' = joinFields (op &&& op') (a &&& a') (r &&& r') (v &&& v') := by
  apply BitVec.eq_of_getLsbD_eq
  intro i _
  simp only [joinFields, BitVec.getLsbD_and, BitVec.getLsbD_append]
  split
  · rfl
  · split
    · rfl
    · split <;> rfl

/-- A row whose mask covers the opcode and some of the fields matches a word that has its opcode and zeros there. -/
theorem hits_joinFields (name : String) (op a am : Byte) (r v rm vm : Half) (ha : a &&& am = 0) (hr : r &&& rm = 0)
    (hv : v &&& vm = 0) :
    OpcodeRow.hits ⟨name, joinFields op 0 0 0, joinFields 0xFF am rm vm⟩ (joinFields op a r v) = true := by
  have hop : op &&& 0xFF = op := BitVec.and_allOnes
  rw [OpcodeRow.hits, and_joinFields, ha, hr, hv, hop, beq_self_eq_true]

theorem nop : Statement .nop := ⟨⟨"NOP", 0x000000000000, 0xFFFFFFFFFFFF⟩, by decide, rfl, by decide⟩

theorem clr : Statement .clr := ⟨⟨"CLR", 0x100000000000, 0xFFFFFFFFFFFF⟩, by decide, rfl, by decide⟩

theorem push (b : Byte) : Statement (.push b) :=
  ⟨⟨"PUSH", 0x110000000000, 0xFF00FFFFFFFF⟩, by decide, rfl,
    hits_joinFields "PUSH" 0x11 b 0 0 0 0xFFFF 0xFFFF (by simp) (by decide) (by decide)⟩

theorem setlen (n : Half) : Statement (.setlen n) :=
  ⟨⟨"SETLEN", 0x120000000000, 0xFFFF0000FFFF⟩, by decide, rfl,
    hits_joinFields "SETLEN" 0x12 0 0xFF n 0 0 0xFFFF (by decide) (by simp) (by decide)⟩

theorem wrb (i : Half) (b : Byte) : Statement (.wrb i b) :=
  ⟨⟨"WRB", 0x130000000000, 0xFF000000FFFF⟩, by decide, rfl,
    hits_joinFields "WRB" 0x13 b 0 i 0 0 0xFFFF (by simp) (by simp) (by decide)⟩

theorem rdb (i : Half) : Statement (.rdb i) :=
  ⟨⟨"RDB", 0x140000000000, 0xFFFF0000FFFF⟩, by decide, rfl,
    hits_joinFields "RDB" 0x14 0 0xFF i 0 0 0xFFFF (by decide) (by simp) (by decide)⟩

theorem rdw (i : Half) : Statement (.rdw i) :=
  ⟨⟨"RDW", 0x150000000000, 0xFFFF0000FFFF⟩, by decide, rfl,
    hits_joinFields "RDW" 0x15 0 0xFF i 0 0 0xFFFF (by decide) (by simp) (by decide)⟩

theorem crc : Statement .crc := ⟨⟨"CRC", 0x200000000000, 0xFFFFFFFFFFFF⟩, by decide, rfl, by decide⟩

theorem append : Statement .append := ⟨⟨"APPEND", 0x210000000000, 0xFFFFFFFFFFFF⟩, by decide, rfl, by decide⟩

theorem validate : Statement .validate := ⟨⟨"VALIDATE", 0x220000000000, 0xFFFFFFFFFFFF⟩, by decide, rfl, by decide⟩

theorem strip : Statement .strip := ⟨⟨"STRIP", 0x230000000000, 0xFFFFFFFFFFFF⟩, by decide, rfl, by decide⟩

theorem init (a : Byte) : Statement (.init a) :=
  ⟨⟨"INIT", 0x300000000000, 0xFF00FFFFFFFF⟩, by decide, rfl,
    hits_joinFields "INIT" 0x30 a 0 0 0 0xFFFF 0xFFFF (by simp) (by decide) (by decide)⟩

theorem bldrd (a : Byte) (r c : Half) : Statement (.bldrd a r c) :=
  ⟨⟨"BLDRD", 0x310000000000, 0xFF0000000000⟩, by decide, rfl,
    hits_joinFields "BLDRD" 0x31 a 0 r c 0 0 (by simp) (by simp) (by simp)⟩

theorem bldwr (a : Byte) (r v : Half) : Statement (.bldwr a r v) :=
  ⟨⟨"BLDWR", 0x320000000000, 0xFF0000000000⟩, by decide, rfl,
    hits_joinFields "BLDWR" 0x32 a 0 r v 0 0 (by simp) (by simp) (by simp)⟩

end Sys2Proof.Laws.LegalWord
end

