-- ==== Sys2Proof/Tests/Slice0.lean ====
section
/-! SUPPORT. Tests, with expected results from the vectors of spec/95_test_vectors.md (V1 to V25, programs P1 to P7), and the witnesses that the hypotheses of the statements can be met. -/

open Sys2Proof Sys2Proof.Machine

namespace Sys2Proof.Tests

/-! ### States the tests start from -/

/-- The block with these bytes as its current frame. -/
def holding (bs : List Byte) : State := setLen (setBuf State.reset (Memory.storeAll [] 0 bs)) bs.length

/-- The block with a current frame of this length, its bytes unwritten. -/
def lengthIs (n : Nat) : State := setLen State.reset n

/-- The block stopped by a fault (program P5, step 2). -/
def stopped : State := setErr State.reset .illegalCommand

/-- The block after reset, with these events of the host to come. -/
def facing (events : List HostEvent) : State := setPending State.reset events

/-- What the property says of the state a result goes on to. -/
def goesOn (r : Result) (p : State → Bool) : Bool :=
  match r with
  | .next t => p t
  | .fault _ => false
  | .refused _ => false

/-- The 23 body bytes of vector V10. -/
def bodyV10 : List Byte := Statements.responseV10.take 23

/-- `F8 04 00 00 00 0A 64 64`, the read command frame of vector V3. -/
def readFrame : List Byte := [0xF8, 0x04, 0x00, 0x00, 0x00, 0x0A, 0x64, 0x64]

theorem currentFrame_holding (bs : List Byte) : currentFrame (holding bs) = bs := currentFrame_placed State.reset bs

/-! ### Operand ranges of the written form (R62, R63): each check refuses an ill-formed line -/

theorem test_push_operand_is_a_byte : (Written.push 256).inRange = false ∧ (Written.push 255).inRange = true := by decide

theorem test_setlen_operand_is_16_bits :
    (Written.setlen 65536).inRange = false ∧ (Written.setlen 65535).inRange = true := by decide

theorem test_wrb_operands :
    (Written.wrb 65536 0).inRange = false ∧ (Written.wrb 0 256).inRange = false ∧ (Written.wrb 65535 255).inRange = true := by
  decide

theorem test_rdb_operand : (Written.rdb 65536).inRange = false ∧ (Written.rdb 65535).inRange = true := by decide

theorem test_rdw_operand : (Written.rdw 65536).inRange = false ∧ (Written.rdw 65535).inRange = true := by decide

theorem test_init_operand : (Written.init 256).inRange = false ∧ (Written.init 0).inRange = true := by decide

theorem test_bldrd_operands :
    (Written.bldrd 256 0 0).inRange = false ∧ (Written.bldrd 0 65536 0).inRange = false ∧
    (Written.bldrd 0 0 65536).inRange = false ∧ (Written.bldrd 255 65535 65535).inRange = true := by decide

theorem test_bldwr_operands :
    (Written.bldwr 256 0 0).inRange = false ∧ (Written.bldwr 0 65536 0).inRange = false ∧
    (Written.bldwr 0 0 65536).inRange = false ∧ (Written.bldwr 255 65535 65535).inRange = true := by decide

theorem test_pseudo_command_bytes :
    (Written.load [256]).inRange = false ∧ (Written.frame [0, 256]).inRange = false ∧
    (Written.check [256, 0]).inRange = false ∧ (Written.load [255]).inRange = true := by decide

/-- A byte list longer than the buffer, of whatever size, is refused; `FRAME` needs room for the CRC field. -/
theorem test_pseudo_command_lengths :
    (Written.load (List.replicate 65536 0)).inRange = false ∧ (Written.frame (List.replicate 65534 0)).inRange = false ∧
    (Written.check (List.replicate 65536 0)).inRange = false ∧ (Written.frame (List.replicate 23 0)).inRange = true := by
  have hge := Config.bufSize_ge
  have hle := Config.bufSize_le
  refine ⟨?_, ?_, ?_, ?_⟩ <;> simp only [Written.inRange, List.length_replicate]
  · rw [decide_eq_false (by omega), Bool.false_and]
  · rw [decide_eq_false (by omega), Bool.false_and]
  · rw [decide_eq_false (by omega), Bool.false_and]
  · rw [decide_eq_true (by omega), Bool.true_and]
    decide

/-! ### Decoding: words written out bit by bit from R54 to R56 (vector V22) -/

theorem test_decode_nop : decode 0b00000000_00000000_0000000000000000_0000000000000000 = .command .nop := by decide

theorem test_decode_clr : decode 0b00010000_00000000_0000000000000000_0000000000000000 = .command .clr := by decide

theorem test_decode_push : decode 0b00010001_11111111_0000000000000000_0000000000000000 = .command (.push 0xFF) := by decide

theorem test_decode_setlen : decode 0b00010010_00000000_0000000000011001_0000000000000000 = .command (.setlen 25) := by decide

theorem test_decode_wrb : decode 0b00010011_10100101_0000000000010000_0000000000000000 = .command (.wrb 16 0xA5) := by decide

theorem test_decode_rdb : decode 0b00010100_00000000_0000000000011000_0000000000000000 = .command (.rdb 24) := by decide

theorem test_decode_rdw : decode 0b00010101_00000000_0000000000000011_0000000000000000 = .command (.rdw 3) := by decide

theorem test_decode_crc : decode 0b00100000_00000000_0000000000000000_0000000000000000 = .command .crc := by decide

theorem test_decode_append : decode 0b00100001_00000000_0000000000000000_0000000000000000 = .command .append := by decide

theorem test_decode_validate : decode 0b00100010_00000000_0000000000000000_0000000000000000 = .command .validate := by decide

theorem test_decode_strip : decode 0b00100011_00000000_0000000000000000_0000000000000000 = .command .strip := by decide

theorem test_decode_init : decode 0b00110000_11111000_0000000000000000_0000000000000000 = .command (.init 0xF8) := by decide

theorem test_decode_bldrd :
    decode 0b00110001_11111000_0000000000000000_0000000000001010 = .command (.bldrd 0xF8 0x0000 10) := by decide

theorem test_decode_bldwr :
    decode 0b00110010_00000001_0000000000000010_0000000000000101 = .command (.bldwr 0x01 0x0002 0x0005) := by decide

/-- Format F has no reserved bits (V22). -/
theorem test_decode_full_fields : decode 0x31FFFFFFFFFF = .command (.bldrd 0xFF 0xFFFF 0xFFFF) := by decide

/-- The unassigned opcodes V22 lists. -/
theorem test_unassigned_opcodes :
    [0x010000000000, 0x040000000000, 0x060000000000, 0x160000000000, 0x240000000000, 0x330000000000, 0x400000000000,
      0xFF0000000000, 0xFFFFFFFFFFFF].all (fun w => decode w == .illegal .unassignedOpcode) = true := by decide

/-- The words with a reserved field that is not zero V22 lists. -/
theorem test_reserved_fields :
    [0x000000000001, 0x100100000000, 0x110000010000, 0x1200000A0001, 0x1201000A0000, 0x130000000001, 0x14FF00000000,
      0x150000030001, 0x200000000001, 0x210000010000, 0x22FF00000000, 0x230000000100, 0x300000000001, 0x30F800010000,
      0x120101010000].all (fun w => decode w == .illegal .reservedNotZero) = true := by decide

/-- Each row's word is legal, and two words are not. -/
theorem test_legal_words :
    legalWord 0x110000000000 = true ∧ legalWord 0x110000010000 = false ∧ legalWord 0x040000000000 = false := by decide

/-- A word of the opcode table, as the host of the model gives it. -/
theorem test_table_word : decodeTableWord 48 0x31F80000000A = some (.bldrd 0xF8 0 10) ∧ decodeTableWord 48 (2 ^ 40) = none := by
  decide

/-! ### The step -/

/-- Step 1 of program P5 as the first command after reset. -/
theorem test_first_command_runs :
    goesOn (step (State.reset.withFetchWord 48 0x300100000000)) (fun t => t.devAddr == 0x01 && t.pending == []) = true := by
  decide

/-- Step 2 of program P5: an illegal word gives `STATUS = 0x02` and changes nothing else. -/
theorem test_illegal_word_faults :
    step (facing [.command 0x400000000000]) = .next (setErr State.reset .illegalCommand) ∧ status stopped = 0x02 := by
  constructor
  · rfl
  · decide

/-- V23: once stopped, a legal word is ignored, and a reset starts the block again. -/
theorem test_stopped_then_reset :
    goesOn (step (setPending stopped [.command 0x300200000000])) (fun t => t.devAddr == 0xF8 && t.err == .illegalCommand) = true ∧
    goesOn (step (setPending stopped [.reset])) (fun t => t.err == .noFault && t.len == 0) = true := by decide

/-- V25: the register port, in a state with the registers of the end of program P1. -/
theorem test_register_port :
    goesOn (step (setPending (setOk (setCrcOut (lengthIs 6) 0x6464) true) [.readPort 2])) (fun t => t.portOut == 0x6464) = true ∧
    portRead (setOk (lengthIs 6) true) 0 = 0x0001 ∧ portRead (lengthIs 6) 1 = 6 ∧ portRead (lengthIs 6) 4 = 0x00F8 := by decide

/-! ### One command at a time -/

/-- V18. -/
theorem test_nop : exec .nop (holding [0xAA]) = .next (holding [0xAA]) := rfl

/-- V18: `LEN = 0`; `OK` and the bytes unchanged. -/
theorem test_clr :
    goesOn (exec .clr (setOk (holding readFrame) true)) (fun t => t.len == 0 && t.ok && byteAt t 0 == 0xF8) = true := by decide

/-- V18 and P4 step 1. -/
theorem test_push : goesOn (exec (.push 0xAA) State.reset) (fun t => byteAt t 0 == 0xAA && t.len == 1) = true := by decide

/-- V18, last row of `PUSH`, for any `BUF_SIZE` (V20). -/
theorem test_push_full : exec (.push 0x55) (lengthIs Config.bufSize) = .next (setErr (lengthIs Config.bufSize) .bufferOverflow) :=
  if_pos rfl

/-- V18. -/
theorem test_setlen : goesOn (exec (.setlen 6) (holding readFrame)) (fun t => t.len == 6 && byteAt t 7 == 0x64) = true := by decide

/-- V20 with `n = B`: `SETLEN BUF_SIZE` does not fault. -/
theorem test_setlen_whole_buffer :
    exec (.setlen (BitVec.ofNat 16 Config.bufSize)) State.reset = .next (lengthIs Config.bufSize) := by
  have e : (BitVec.ofNat 16 Config.bufSize).toNat = Config.bufSize :=
    Nat.mod_eq_of_lt (Nat.lt_succ_of_le Config.bufSize_le)
  show (if _ > Config.bufSize then _ else _) = _
  rw [operandNat, e, if_neg (Nat.lt_irrefl _)]
  rfl

/-- V19, first row. -/
theorem test_wrb :
    goesOn (exec (.wrb 5 0x04) (holding [0x01, 0x06, 0x00, 0x02, 0x00, 0x05, 0xE8, 0x09]))
      (fun t => byteAt t 5 == 0x04 && byteAt t 4 == 0x00 && byteAt t 6 == 0xE8 && t.len == 8) = true := by decide

/-- V19: writing beyond `LEN` is allowed, and does not move `LEN`. -/
theorem test_wrb_beyond_len : goesOn (exec (.wrb 24 0x07) State.reset) (fun t => byteAt t 24 == 0x07 && t.len == 0) = true := by
  decide

/-- V10: the byte-count, with a zero high byte. -/
theorem test_rdb : goesOn (exec (.rdb 2) (holding Statements.responseV10)) (fun t => t.dout == 0x0014) = true := by decide

/-- V19: `RDB 65535` faults for every `BUF_SIZE`. -/
theorem test_rdb_outside : exec (.rdb 65535) State.reset = .next (setErr State.reset .indexOutOfRange) :=
  if_pos Config.bufSize_le

/-- V10: `RDW 3`, big-endian. -/
theorem test_rdw : goesOn (exec (.rdw 3) (holding Statements.responseV10)) (fun t => t.dout == 0x08FC) = true := by decide

/-- V19: `RDW 65535` faults, its second index not wrapping to 0. -/
theorem test_rdw_outside : exec (.rdw 65535) State.reset = .next (setErr State.reset .indexOutOfRange) :=
  if_pos (Nat.le_succ_of_le Config.bufSize_le)

/-- V1. -/
theorem test_crc_of_nothing : goesOn (exec .crc (setCrcOut State.reset 0)) (fun t => t.crcOut == 0xFFFF) = true := by decide

/-- V3. -/
theorem test_crc :
    goesOn (exec .crc (holding [0xF8, 0x04, 0x00, 0x00, 0x00, 0x0A])) (fun t => t.crcOut == 0x6464 && t.len == 6) = true := by
  decide

/-- V16: the low byte of 0x0D70 lies first. -/
theorem test_append :
    goesOn (exec .append (holding [0x01, 0x04, 0x00, 0x00, 0x00, 0x0A]))
      (fun t => byteAt t 6 == 0x70 && byteAt t 7 == 0x0D && t.len == 8 && t.crcOut == 0xFFFF) = true := by decide

/-- V20: `LEN = B - 1` leaves no room for the CRC field. -/
theorem test_append_no_room :
    exec .append (lengthIs (Config.bufSize - 1)) = .next (setErr (lengthIs (Config.bufSize - 1)) .bufferOverflow) := by
  have hge := Config.bufSize_ge
  exact if_pos (show Config.bufSize - 1 + 2 > Config.bufSize by omega)

/-- V13, rows 7 and 8. -/
theorem test_validate :
    goesOn (exec .validate (holding [0x00, 0xBF, 0x40])) (·.ok) = true ∧
    goesOn (exec .validate (setOk (holding [0x00, 0x40, 0xBF]) true)) (fun t => !t.ok) = true := by decide

/-- V13, row 3: two bytes are never a frame, though these are the CRC of nothing. -/
theorem test_validate_too_short : goesOn (exec .validate (setOk (holding [0xFF, 0xFF]) true)) (fun t => !t.ok) = true := by
  decide

/-- V14, row 2. -/
theorem test_strip :
    goesOn (exec .strip (holding readFrame)) (fun t => t.len == 6 && t.ok && byteAt t 6 == 0x64) = true := by decide

/-- V14, row 3: an invalid frame keeps its length, and `OK` is cleared. -/
theorem test_strip_invalid :
    goesOn (exec .strip (setOk (holding [0xF8, 0x04, 0x00, 0x00, 0x00, 0x0B, 0x64, 0x64]) true))
      (fun t => t.len == 8 && !t.ok) = true := by decide

/-- V21, the rows whose address is replaced. -/
theorem test_init_replaced :
    goesOn (exec (.init 0x00) (setDevAddr State.reset 0x01)) (fun t => t.devAddr == 0xF8) = true ∧
    goesOn (exec (.init 0xF9) (setDevAddr State.reset 0x01)) (fun t => t.devAddr == 0xF8) = true := by decide

/-- V21, the rows at the ends of the range. -/
theorem test_init_kept :
    goesOn (exec (.init 0x01) State.reset) (fun t => t.devAddr == 0x01) = true ∧
    goesOn (exec (.init 0xF7) State.reset) (fun t => t.devAddr == 0xF7) = true := by decide

/-- V11, row 3. -/
theorem test_bldrd :
    goesOn (exec (.bldrd 0x01 0x0001 1) (lengthIs 3))
      (fun t => currentFrame t == [0x01, 0x04, 0x00, 0x01, 0x00, 0x01, 0x60, 0x0A]) = true := by decide

/-- V11, row 4: the address is not clamped. -/
theorem test_bldrd_zeros :
    goesOn (exec (.bldrd 0x00 0x0000 0) State.reset)
      (fun t => currentFrame t == [0x00, 0x04, 0x00, 0x00, 0x00, 0x00, 0xF1, 0xDB]) = true := by decide

/-- V12, row 2, but for the function code and the CRC, which `FC_WRITE` decides. -/
theorem test_bldwr :
    goesOn (exec (.bldwr 0xF8 0x0001 0x00E6) State.reset)
      (fun t => (currentFrame t).take 1 == [0xF8] && ((currentFrame t).drop 2).take 4 == [0x00, 0x01, 0x00, 0xE6] &&
        t.len == 8) = true := by decide

/-- V12, rows 1 to 3: the frames with function code 0x06. -/
theorem test_write_frames :
    buildFrame 0x01 0x06 0x0002 0x0005 = [0x01, 0x06, 0x00, 0x02, 0x00, 0x05, 0xE8, 0x09] ∧
    buildFrame 0xF8 0x06 0x0001 0x00E6 = [0xF8, 0x06, 0x00, 0x01, 0x00, 0xE6, 0x4D, 0xE9] ∧
    buildFrame 0xF8 0x06 0x0002 0x0001 = [0xF8, 0x06, 0x00, 0x02, 0x00, 0x01, 0xFD, 0xA3] := by decide

/-! ### Pure functions -/

/-- V2. -/
theorem test_crc_short :
    crc16 [0x00] = 0x40BF ∧ crc16 [0x01] = 0x807E ∧ crc16 [0xFF] = 0x00FF ∧ crc16 [0x12, 0x34] = 0xC70C ∧
    crc16 [0xFF, 0xFF] = 0x0000 := by decide

/-- V4: the published check value, by both forms. -/
theorem test_crc_check_value :
    crc16 [0x31, 0x32, 0x33, 0x34, 0x35, 0x36, 0x37, 0x38, 0x39] = 0x4B37 ∧
    crc16Bitwise [0x31, 0x32, 0x33, 0x34, 0x35, 0x36, 0x37, 0x38, 0x39] = 0x4B37 := by decide +kernel

/-- V6: the sum and the exclusive-or of the table's entries, and how many there are. -/
theorem test_table :
    (crcTable.map (·.toNat)).sum = 0x7FE080 ∧ crcTable.foldl (· ^^^ ·) 0 = 0x0000 ∧ crcTable.length = crcTableEntries := by
  decide +kernel

/-- V10: the response frame from its ten words, its length, and that it validates. -/
theorem test_response :
    readResponse 0xF8 0x04 [0x08FC, 0x0000, 0x05DC, 0x0000, 0x0BB8, 0x0000, 0x03E8, 0x01F4, 0x005F, 0x0000] =
      Statements.responseV10 ∧
    Statements.responseV10.length = respRead10Len ∧ validate Statements.responseV10 = true := by decide +kernel

/-- V8: two of the single-bit changes. -/
theorem test_bit_errors :
    validate readFrame = true ∧ validate (Statements.flipBit readFrame 5 0) = false ∧
    validate (Statements.flipBit readFrame 6 7) = false := by decide

/-- Fields of the read command frame (R52). -/
theorem test_frame_fields :
    frameAddress readFrame = some 0xF8 ∧ frameFunction readFrame = some 0x04 ∧ frameRegister readFrame = some 0 ∧
    frameValue readFrame = some 10 ∧ frameCrc readFrame = some 0x6464 ∧ frameCrc [0x64] = none := by decide

/-! ### Lines of text (R62, R63) -/

theorem test_read_command : readLine ("INIT 0xF8              ; 30F800000000".toList) = .written (.init 0xF8) := by decide

theorem test_read_pseudo_command : readLine ("CHECK 0xAA 0x3F 0x3F".toList) = .written (.check [0xAA, 0x3F, 0x3F]) := by decide

theorem test_read_other_lines :
    readLine ("   ; a comment".toList) = .blank ∧ readLine ("PUSH".toList) = .malformed ∧
    readLine ("PUSH 0xG1".toList) = .malformed := by decide

/-! ### Witnesses: for each statement with hypotheses, states and operands that meet them, clause by clause

A statement that has no hypotheses, or whose hypotheses only name the fields of a word, needs none. -/

theorem goesOn_next {r : Result} {p : State → Bool} (h : goesOn r p = true) : ∃ t, r = .next t ∧ p t = true := by
  cases r with
  | next t => exact ⟨t, rfl, h⟩
  | fault _ => exact absurd h Bool.false_ne_true
  | refused _ => exact absurd h Bool.false_ne_true

theorem bufSize_toNat : (BitVec.ofNat 16 Config.bufSize).toNat = Config.bufSize :=
  Nat.mod_eq_of_lt (Nat.lt_succ_of_le Config.bufSize_le)

/-- The last index of the buffer, as an operand. -/
theorem lastIndex_toNat : (BitVec.ofNat 16 (Config.bufSize - 1)).toNat = Config.bufSize - 1 :=
  Nat.mod_eq_of_lt (by have := Config.bufSize_le; omega)

/-- The last index `RDW` may have, as an operand. -/
theorem lastHalfIndex_toNat : (BitVec.ofNat 16 (Config.bufSize - 2)).toNat = Config.bufSize - 2 :=
  Nat.mod_eq_of_lt (by have := Config.bufSize_le; omega)

theorem running_lengthIs {n : Nat} (h : n ≤ Config.bufSize) : Running (lengthIs n) := ⟨rfl, h⟩

theorem running_lengthIs_25 {n : Nat} (h : n ≤ 25) : Running (lengthIs n) :=
  ⟨rfl, Nat.le_trans h Config.bufSize_ge⟩

theorem witness_DecodingIsTheFieldConditionsAndInvertsEncoding :
    (0x13 : Byte) = opField 0x13A500100000 ∧ (0xA5 : Byte) = aField 0x13A500100000 ∧
    (0x0010 : Half) = rField 0x13A500100000 ∧ (0x0000 : Half) = vField 0x13A500100000 := by decide

theorem witness_DecodedWordsAreTheEncodingsOfTheirCommands :
    decode 0x000000000000 = .command .nop ∧ decode 0x32FFFFFFFFFF = .command (.bldwr 0xFF 0xFFFF 0xFFFF) := by decide

theorem witness_TableRowsSelectExactlyTheirCommand :
    ⟨"NOP", 0x000000000000, 0xFFFFFFFFFFFF⟩ ∈ opcodeTable ∧ ⟨"BLDWR", 0x320000000000, 0xFF0000000000⟩ ∈ opcodeTable := by
  decide

/-- One word for each format that reserves a field. -/
theorem witness_NonZeroReservedFieldRaisesIllegalCommand :
    ((opField 0x230000000001, Format.N) ∈ Statements.assigned ∧ reservedZero .N 0x230000000001 = false) ∧
    ((opField 0x11FF00010000, Format.B) ∈ Statements.assigned ∧ reservedZero .B 0x11FF00010000 = false) ∧
    ((opField 0x1201FFFF0000, Format.I) ∈ Statements.assigned ∧ reservedZero .I 0x1201FFFF0000 = false) ∧
    ((opField 0x13FFFFFF8000, Format.IB) ∈ Statements.assigned ∧ reservedZero .IB 0x13FFFFFF8000 = false) ∧
    (facing [.command 0x230000000001]).err = .noFault ∧
    (facing [.command 0x230000000001]).pending = [.command 0x230000000001] := by decide

theorem witness_UnassignedOpcodeRaisesIllegalCommand :
    Statements.isAssigned (opField 0x010000000000) = false ∧ Statements.isAssigned (opField 0x33FFFFFFFFFF) = false ∧
    Statements.isAssigned (opField 0xFFFFFFFFFFFF) = false ∧ (facing [.command 0x010000000000]).err = .noFault ∧
    (facing [.command 0x010000000000]).pending = [.command 0x010000000000] := by decide

theorem witness_StepRunsTheDecodedCommand :
    (facing [.command 0x11FF00000000, .reset]).pending = .command 0x11FF00000000 :: [.reset] ∧
    decode 0x11FF00000000 = .command (.push 0xFF) := by decide

theorem witness_WordsAreEvaluatedInTheStatedOrder :
    ((setPending stopped [.command 0]).pending = [.command 0] ∧ (setPending stopped [.command 0]).err ≠ .noFault) ∧
    ((facing [.command 0x400000000000]).err = .noFault ∧ decode 0x400000000000 = .illegal .unassignedOpcode) ∧
    ((setPending (lengthIs Config.bufSize) [.command 0x115500000000]).err = .noFault ∧
      decode 0x115500000000 = .command (.push 0x55) ∧
      Statements.ownFault (.push 0x55) (setPending (lengthIs Config.bufSize) [.command 0x115500000000]) ≠ .noFault) ∧
    ((lengthIs Config.bufSize).err = .noFault ∧ (lengthIs Config.bufSize).len ≤ Config.bufSize ∧
      decode 0x200000000000 = .command .crc ∧ Statements.ownFault .crc (lengthIs Config.bufSize) = .noFault) := by
  refine ⟨by decide, by decide, ⟨rfl, by decide, ?_⟩, rfl, Nat.le_refl _, by decide, rfl⟩
  show (if Config.bufSize = Config.bufSize then ErrCode.bufferOverflow else ErrCode.noFault) ≠ .noFault
  rw [if_pos rfl]
  decide

theorem witness_FaultsAreRaisedExactlyOnTheirConditions :
    Running (lengthIs Config.bufSize) ∧ Running State.reset ∧
    (facing [.command 0x010000000000]).err = .noFault ∧
    (facing [.command 0x010000000000]).pending = [.command 0x010000000000] ∧
    decode 0x010000000000 = .illegal .unassignedOpcode :=
  ⟨running_lengthIs (Nat.le_refl _), running_lengthIs (Nat.zero_le _), rfl, rfl, by decide⟩

theorem witness_FaultEntryChangesOnlyTheErrorField :
    ((lengthIs Config.bufSize).err = .noFault ∧
      ∃ t, exec (.push 0x55) (lengthIs Config.bufSize) = .next t ∧ t.err ≠ .noFault) ∧
    ((facing [.command 0x010000000000]).err = .noFault ∧ decode 0x010000000000 = .illegal .unassignedOpcode ∧
      ∃ t, step (facing [.command 0x010000000000]) = .next t) :=
  ⟨⟨rfl, _, test_push_full, by decide⟩, rfl, by decide, _, rfl⟩

theorem witness_StoppedBlockIgnoresEveryWord :
    stopped.err ≠ .noFault ∧ (setPending stopped [.command 0x010000000000]).pending = [.command 0x010000000000] ∧
    (setPending stopped [.readPort 0]).pending = [.readPort 0] := by decide

theorem witness_OnlyResetClearsTheErrorField :
    (stopped.err ≠ .noFault ∧ (∀ rest, (setPending stopped [.command 0]).pending ≠ .reset :: rest) ∧
      ∃ t, step (setPending stopped [.command 0]) = .next t) ∧
    (setPending stopped [.reset]).pending = .reset :: [] := by
  refine ⟨⟨by decide, ?_, _, rfl⟩, rfl⟩
  intro rest h
  cases h

theorem witness_ResetPutsEveryRegisterInItsResetState : (setPending stopped [.reset, .reset]).pending = .reset :: [.reset] := rfl

theorem witness_UnwrittenBytesKeepTheirValueUntilReset :
    ((facing [.reset]).pending = .reset :: [] ∧ ∃ t, step (facing [.reset]) = .next t) ∧
    (∀ rest, (facing [.command 0x100000000000]).pending ≠ .reset :: rest) ∧
    ∃ t, step (facing [.command 0x100000000000]) = .next t ∧ Memory.lookup t.buf 0 = none := by
  refine ⟨⟨rfl, _, rfl⟩, ?_, _, rfl, rfl⟩
  intro rest h
  cases h

theorem witness_RegisterPortShowsTheRegisters :
    (lengthIs Config.bufSize).len ≤ Config.bufSize ∧ 5 ≤ 5 ∧ (facing [.readPort 4]).pending = .readPort 4 :: [] :=
  ⟨Nat.le_refl _, Nat.le_refl _, rfl⟩

/-- The longest frame, with each end of the address range. -/
theorem witness_EveryStepKeepsTheInvariant :
    (Inv (setPending (lengthIs Config.bufSize) [.command 0]) ∧
      ∃ t, step (setPending (lengthIs Config.bufSize) [.command 0]) = .next t) ∧
    Inv (setDevAddr State.reset 0x01) :=
  ⟨⟨⟨Nat.le_refl _, by decide, by decide, rfl⟩, _, rfl⟩, Nat.zero_le _, by decide, by decide, rfl⟩

theorem witness_EveryStepAnswersANextState : (lengthIs Config.bufSize).len ≤ Config.bufSize := Nat.le_refl _

theorem witness_EveryRunCompletesInTheInvariant : Inv (facing [.command 0x11AA00000000, .reset, .readPort 1]) :=
  ⟨Nat.zero_le _, by decide, by decide, rfl⟩

/-- A command that stores and one that stores nothing, each byte outside the stored ones. -/
theorem witness_CommandsWriteOnlyTheirOwnState :
    ((∃ t, exec (.push 0xAA) State.reset = .next t) ∧ 1 ≥ Statements.storedAt (.push 0xAA) State.reset + Statements.storedCount (.push 0xAA)) ∧
    (exec .nop State.reset = .next State.reset ∧ Statements.writesLen .nop = false ∧ Statements.writesCrcOut .nop = false ∧
      Statements.writesDout .nop = false ∧ Statements.writesDevAddr .nop = false ∧ Statements.writesOk .nop = false) := by
  obtain ⟨t, ht, -⟩ := goesOn_next test_push
  exact ⟨⟨⟨t, ht⟩, by decide⟩, rfl, by decide⟩

theorem witness_ResultRegistersAreNeverInputs : ∃ t, exec .crc (holding readFrame) = .next t := by
  obtain ⟨t, ht, -⟩ := goesOn_next (r := exec .crc (holding readFrame)) (p := fun t => t.crcOut == 0x0000) (by decide)
  exact ⟨t, ht⟩

/-- Two states that differ beyond the frame. -/
theorem witness_CrcAndVerdictDependOnTheFrameAlone :
    Running (holding [0xAA, 0x3F, 0x3F]) ∧ Running (setOk (holding [0xAA, 0x3F, 0x3F]) true) ∧
    currentFrame (holding [0xAA, 0x3F, 0x3F]) = currentFrame (setOk (holding [0xAA, 0x3F, 0x3F]) true) := by decide

theorem witness_RepeatedReadsGiveTheSameResult :
    (∃ t, exec .crc State.reset = .next t) ∧ (∃ t, exec .validate State.reset = .next t) ∧
    (∃ t, exec (.rdb 65535) State.reset = .next t) ∧ ∃ t, exec (.rdw 65535) State.reset = .next t := by
  obtain ⟨t, ht, -⟩ := goesOn_next (r := exec .crc State.reset) (p := fun _ => true) (by decide)
  obtain ⟨u, hu, -⟩ := goesOn_next (r := exec .validate State.reset) (p := fun _ => true) (by decide)
  exact ⟨⟨t, ht⟩, ⟨u, hu⟩, ⟨_, test_rdb_outside⟩, _, test_rdw_outside⟩

theorem witness_ByteAndHalfwordAccessesAgree :
    (Running State.reset ∧ (BitVec.ofNat 16 (Config.bufSize - 2)).toNat + 1 < Config.bufSize) ∧
    ((BitVec.ofNat 16 (Config.bufSize - 1)).toNat < Config.bufSize ∧ 0 < (BitVec.ofNat 16 (Config.bufSize - 1)).toNat) ∧
    ((0 : Half).toNat < Config.bufSize ∧ (0 : Half).toNat + 1 < Config.bufSize) ∧
    (Running (holding readFrame) ∧ validate (currentFrame (holding readFrame)) = true) := by
  have hge := Config.bufSize_ge
  rw [lastHalfIndex_toNat, lastIndex_toNat, currentFrame_holding]
  refine ⟨⟨running_lengthIs (Nat.zero_le _), by omega⟩, ⟨by omega, by omega⟩, ⟨?_, ?_⟩, by decide, by decide⟩
  · show 0 < _
    omega
  · show 1 < _
    omega

theorem witness_ReadReturnsTheLatestWrite :
    Running State.reset ∧ (0 : Half).toNat < Config.bufSize ∧
    (BitVec.ofNat 16 (Config.bufSize - 1)).toNat < Config.bufSize := by
  have hge := Config.bufSize_ge
  rw [lastIndex_toNat]
  refine ⟨running_lengthIs (Nat.zero_le _), ?_, by omega⟩
  show 0 < _
  omega

theorem witness_BytesBeyondTheLengthAreKept :
    (Running State.reset ∧ (BitVec.ofNat 16 (Config.bufSize - 1)).toNat < Config.bufSize) ∧
    (∃ t, exec .clr (holding readFrame) = .next t) ∧ (∃ t, exec .strip (holding readFrame) = .next t) ∧
    (∃ t, exec (.setlen 6) (holding readFrame) = .next t) ∧ Running (lengthIs Config.bufSize) ∧
    (Running (holding readFrame) ∧ validate (currentFrame (holding readFrame)) = true) := by
  have hge := Config.bufSize_ge
  rw [lastIndex_toNat]
  obtain ⟨t, ht, -⟩ := goesOn_next test_strip
  obtain ⟨u, hu, -⟩ := goesOn_next test_setlen
  exact ⟨⟨running_lengthIs (Nat.zero_le _), by omega⟩, ⟨_, rfl⟩, ⟨t, ht⟩, ⟨u, hu⟩, running_lengthIs (Nat.le_refl _),
    by decide, by decide⟩

theorem witness_CrcCheckValueResidueAndErrorDetection : 0 < readFrame.length ∧ 7 < readFrame.length ∧ 7 < 8 := by decide

theorem witness_CrcCommandLatchesTheCrcOfTheFrame :
    stopped.err ≠ .noFault ∧ Running (lengthIs Config.bufSize) ∧
    (opField 0x200000000001 = 0x20 ∧ (0x200000000001 : CommandWord) ≠ 0x200000000000) ∧
    (Running State.reset ∧ State.reset.len = 0) ∧
    (Running (holding readFrame) ∧ validate (currentFrame (holding readFrame)) = true) ∧
    (∃ t, exec .crc State.reset = .next t) ∧
    (Running (holding [0xF8, 0x04, 0x00, 0x00, 0x00, 0x0A]) ∧
      currentFrame (holding [0xF8, 0x04, 0x00, 0x00, 0x00, 0x0A]) = [0xF8, 0x04, 0x00, 0x00, 0x00, 0x0A]) := by
  obtain ⟨t, ht, -⟩ := goesOn_next (r := exec .crc State.reset) (p := fun _ => true) (by decide)
  exact ⟨by decide, running_lengthIs (Nat.le_refl _), by decide, ⟨running_lengthIs (Nat.zero_le _), rfl⟩, by decide,
    ⟨t, ht⟩, by decide⟩

theorem witness_NopChangesNothing :
    opField 0x00FF00000000 = 0x00 ∧ (0x00FF00000000 : CommandWord) ≠ 0x000000000000 := by decide

theorem witness_ClrEmptiesTheFrame :
    stopped.err ≠ .noFault ∧ (lengthIs Config.bufSize).err = .noFault ∧ State.reset.len = 0 ∧
    ∃ t, exec .clr (lengthIs Config.bufSize) = .next t :=
  ⟨by decide, rfl, rfl, _, rfl⟩

theorem witness_PushAppendsOneByte :
    stopped.err ≠ .noFault ∧
    ((lengthIs Config.bufSize).err = .noFault ∧ (lengthIs Config.bufSize).len = Config.bufSize) ∧
    (State.reset.err = .noFault ∧ State.reset.len < Config.bufSize) ∧
    ((lengthIs (Config.bufSize - 1)).err = .noFault ∧ (lengthIs (Config.bufSize - 1)).len + 1 = Config.bufSize) := by
  have hge := Config.bufSize_ge
  refine ⟨by decide, ⟨rfl, rfl⟩, ⟨rfl, ?_⟩, rfl, ?_⟩
  · show 0 < _
    omega
  · show Config.bufSize - 1 + 1 = _
    omega

theorem witness_SetlenSetsTheLength :
    stopped.err ≠ .noFault ∧ State.reset.err = .noFault ∧
    (BitVec.ofNat 16 Config.bufSize).toNat ≤ Config.bufSize ∧ (0 : Half).toNat ≤ Config.bufSize ∧
    ((holding [0x01, 0x06, 0x00, 0x02, 0x00, 0x05, 0xE8, 0x09]).err = .noFault ∧
      currentFrame (holding [0x01, 0x06, 0x00, 0x02, 0x00, 0x05, 0xE8, 0x09]) =
        [0x01, 0x06, 0x00, 0x02, 0x00, 0x05, 0xE8, 0x09]) :=
  ⟨by decide, rfl, Nat.le_of_eq bufSize_toNat, Nat.zero_le _, rfl, currentFrame_holding _⟩

theorem witness_WrbWritesOneByte :
    stopped.err ≠ .noFault ∧ State.reset.err = .noFault ∧
    (BitVec.ofNat 16 Config.bufSize).toNat ≥ Config.bufSize ∧ (65535 : Half).toNat ≥ Config.bufSize ∧
    (BitVec.ofNat 16 (Config.bufSize - 1)).toNat < Config.bufSize ∧
    ((holding [0x01, 0x06, 0x00, 0x02, 0x00, 0x05]).err = .noFault ∧
      byteAt (holding [0x01, 0x06, 0x00, 0x02, 0x00, 0x05]) 5 = 0x05) := by
  have hge := Config.bufSize_ge
  rw [lastIndex_toNat]
  exact ⟨by decide, rfl, Nat.le_of_eq bufSize_toNat.symm, Config.bufSize_le, by omega, by decide⟩

theorem witness_RdbReadsOneByte :
    stopped.err ≠ .noFault ∧ State.reset.err = .noFault ∧
    (BitVec.ofNat 16 Config.bufSize).toNat ≥ Config.bufSize ∧ (65535 : Half).toNat ≥ Config.bufSize ∧
    (BitVec.ofNat 16 (Config.bufSize - 1)).toNat < Config.bufSize ∧
    ((holding Statements.responseV10).err = .noFault ∧
      currentFrame (holding Statements.responseV10) = Statements.responseV10) := by
  have hge := Config.bufSize_ge
  rw [lastIndex_toNat]
  exact ⟨by decide, rfl, Nat.le_of_eq bufSize_toNat.symm, Config.bufSize_le, by omega, rfl, currentFrame_holding _⟩

theorem witness_RdwReadsTwoBytesBigEndian :
    stopped.err ≠ .noFault ∧ State.reset.err = .noFault ∧
    (BitVec.ofNat 16 (Config.bufSize - 1)).toNat + 1 ≥ Config.bufSize ∧
    (BitVec.ofNat 16 (Config.bufSize - 2)).toNat + 1 < Config.bufSize ∧
    (Running (holding readFrame) ∧ validate (currentFrame (holding readFrame)) = true) ∧
    ((holding Statements.responseV10).err = .noFault ∧
      currentFrame (holding Statements.responseV10) = Statements.responseV10) := by
  have hge := Config.bufSize_ge
  rw [lastIndex_toNat, lastHalfIndex_toNat]
  exact ⟨by decide, rfl, by omega, by omega, by decide, rfl, currentFrame_holding _⟩

theorem witness_AppendAddsTheCrcField :
    stopped.err ≠ .noFault ∧
    ((lengthIs (Config.bufSize - 1)).err = .noFault ∧ (lengthIs (Config.bufSize - 1)).len + 2 > Config.bufSize) ∧
    ((lengthIs Config.bufSize).err = .noFault ∧ (lengthIs Config.bufSize).len + 2 > Config.bufSize) ∧
    ((lengthIs (Config.bufSize - 2)).err = .noFault ∧ (lengthIs (Config.bufSize - 2)).len + 2 = Config.bufSize) ∧
    (State.reset.err = .noFault ∧ State.reset.len = 0) ∧
    ((lengthIs (Config.bufSize - 4)).err = .noFault ∧ (lengthIs (Config.bufSize - 4)).len + 4 ≤ Config.bufSize) ∧
    ((holding [0x01, 0x06, 0x00, 0x02, 0x00, 0x05]).err = .noFault ∧
      currentFrame (holding [0x01, 0x06, 0x00, 0x02, 0x00, 0x05]) = [0x01, 0x06, 0x00, 0x02, 0x00, 0x05]) := by
  have hge := Config.bufSize_ge
  refine ⟨by decide, ⟨rfl, ?_⟩, ⟨rfl, ?_⟩, ⟨rfl, ?_⟩, ⟨rfl, rfl⟩, ⟨rfl, ?_⟩, rfl, currentFrame_holding _⟩
  · show Config.bufSize - 1 + 2 > _
    omega
  · show Config.bufSize + 2 > _
    omega
  · show Config.bufSize - 2 + 2 = _
    omega
  · show Config.bufSize - 4 + 4 ≤ _
    omega

theorem witness_ValidateComparesTheCrcFieldAlone :
    ([0xFF, 0xFF] : List Byte).length ≤ 2 ∧ 2 < ([0xAA, 0x3F, 0x3F] : List Byte).length := by decide

theorem witness_ValidateReportsTheVerdictInOk :
    stopped.err ≠ .noFault ∧ Running (lengthIs Config.bufSize) ∧
    ((lengthIs 2).err = .noFault ∧ (lengthIs 2).len ≤ 2) ∧ (∃ t, exec .validate State.reset = .next t) ∧
    ((holding readFrame).err = .noFault ∧ currentFrame (holding readFrame) = readFrame) := by
  obtain ⟨u, hu, -⟩ := goesOn_next (r := exec .validate State.reset) (p := fun _ => true) (by decide)
  exact ⟨by decide, running_lengthIs (Nat.le_refl _), by decide, ⟨u, hu⟩, rfl, currentFrame_holding _⟩

theorem witness_StripShortensAValidFrame :
    stopped.err ≠ .noFault ∧
    (Running (holding [0xAA, 0x3F, 0x3F]) ∧ validate (currentFrame (holding [0xAA, 0x3F, 0x3F])) = true) ∧
    (Running (holding [0xAA, 0x3F, 0x3E]) ∧ validate (currentFrame (holding [0xAA, 0x3F, 0x3E])) = false) ∧
    ((lengthIs 2).err = .noFault ∧ (lengthIs 2).len ≤ 2) ∧
    ((holding Statements.responseV10).err = .noFault ∧
      currentFrame (holding Statements.responseV10) = Statements.responseV10) :=
  ⟨by decide, by decide, by decide, by decide, rfl, currentFrame_holding _⟩

theorem witness_CommandFramesHaveTheStatedLayout :
    (0x6464 : Half) = crc16 [0xF8, 0x04, hi8 0x0000, lo8 0x0000, hi8 0x000A, lo8 0x000A] := by decide

theorem witness_BldrdBuildsAReadFrame :
    opField 0x31FFFFFFFFFF = 0x31 ∧ stopped.err ≠ .noFault ∧ State.reset.err = .noFault := by decide

theorem witness_BldwrBuildsAWriteFrame :
    opField 0x32FFFFFFFFFF = 0x32 ∧ stopped.err ≠ .noFault ∧ State.reset.err = .noFault := by decide

theorem witness_CodecIsSelfConsistentAndDetectsBitErrors :
    1 ≤ ([0xAA] : List Byte).length ∧
    (1 ≤ (List.replicate (Config.bufSize - 2) (0 : Byte)).length ∧
      (List.replicate (Config.bufSize - 2) (0 : Byte)).length + 2 ≤ Config.bufSize ∧ State.reset.err = .noFault) ∧
    (1 ≤ bodyV10.length ∧ 24 < bodyV10.length + 2 ∧ 7 < 8) ∧ (∃ t, exec .validate State.reset = .next t) ∧
    ∃ a r c, Instr.bldrd 0xF8 0 10 = .bldrd a r c := by
  have hge := Config.bufSize_ge
  obtain ⟨u, hu, -⟩ := goesOn_next (r := exec .validate State.reset) (p := fun _ => true) (by decide)
  rw [List.length_replicate]
  exact ⟨by decide, ⟨by omega, by omega, rfl⟩, by decide, ⟨u, hu⟩, _, _, _, rfl⟩

theorem witness_ReadResponseHasTheStatedLayout :
    (List.replicate 127 (0 : Half)).length ≤ 127 ∧ (List.replicate 10 (0 : Half)).length = 10 ∧
    126 < (List.replicate 127 (0 : Half)).length ∧ 9 < 10 := by
  rw [List.length_replicate, List.length_replicate]
  decide

theorem witness_ReadCommandsGiveTheFieldsOfTheFrame :
    (Running (lengthIs 1) ∧ 0 < (lengthIs 1).len) ∧ (Running (lengthIs 2) ∧ 1 < (lengthIs 2).len) ∧
    (Running (lengthIs 4) ∧ 3 < (lengthIs 4).len) ∧ (Running (lengthIs 6) ∧ 5 < (lengthIs 6).len) ∧
    (Running (lengthIs 3) ∧ 2 < (lengthIs 3).len) ∧ (Running (lengthIs 25) ∧ 4 + 2 * 10 < (lengthIs 25).len) ∧
    (Running (lengthIs 2) ∧ 2 ≤ (lengthIs 2).len) :=
  ⟨⟨running_lengthIs_25 (by decide), by decide⟩, ⟨running_lengthIs_25 (by decide), by decide⟩,
    ⟨running_lengthIs_25 (by decide), by decide⟩, ⟨running_lengthIs_25 (by decide), by decide⟩,
    ⟨running_lengthIs_25 (by decide), by decide⟩, ⟨running_lengthIs_25 (by decide), by decide⟩,
    running_lengthIs_25 (by decide), by decide⟩

theorem witness_InitSetsTheDeviceAddress : stopped.err ≠ .noFault ∧ State.reset.err = .noFault := by decide

theorem witness_PseudoCommandsExpandAsStated :
    ((List.replicate Config.bufSize (0 : Byte)).length ≤ Config.bufSize ∧ State.reset.err = .noFault) ∧
    (List.replicate (Config.bufSize - 2) (0 : Byte)).length + 2 ≤ Config.bufSize ∧
    ([] : List Byte).length + 2 ≤ Config.bufSize := by
  have hge := Config.bufSize_ge
  rw [List.length_replicate, List.length_replicate]
  refine ⟨⟨Nat.le_refl _, rfl⟩, by omega, ?_⟩
  show 2 ≤ _
  omega

end Sys2Proof.Tests
end

section

namespace Sys2Proof.Machine

/-! ### STATUS, field by field (R16 to R18) -/

@[simp] theorem getLsbD_okBit (b : Bool) : (okBit b).getLsbD 0 = b := by
  cases b <;> rfl

/-- Only the four codes of R106 are ever shown; 4 to 7 are reserved (U3). -/
theorem errCode_le_three (e : ErrCode) : errCode e ≤ 3 := by
  cases e <;> decide

theorem getLsbD_status_zero (s : State) : (status s).getLsbD 0 = s.ok := by
  rw [status, BitVec.getLsbD_append]
  exact getLsbD_okBit s.ok

theorem extractLsb'_status_err (s : State) : (status s).extractLsb' 1 3 = errCode s.err := by
  rw [status, BitVec.extractLsb'_append_eq_of_le (Nat.le_refl 1)]
  exact BitVec.extractLsb'_append_eq_right

theorem extractLsb'_status_reserved (s : State) : (status s).extractLsb' 4 4 = 0 := by
  rw [status, BitVec.extractLsb'_append_eq_of_le (by decide : 1 ≤ 4)]
  exact BitVec.extractLsb'_append_eq_left

theorem status_reset : status State.reset = 0x00 := rfl

/-- Settles O18, field by field of `STATUS`. -/
theorem statusRegisterLayout : Obligations.StatusRegisterLayout :=
  ⟨fun s => ⟨getLsbD_status_zero s, extractLsb'_status_err s, extractLsb'_status_reserved s⟩,
    rfl, rfl, rfl, rfl, errCode_le_three, status_reset⟩

/-! ### The state after reset (R22) -/

/-- The empty frame's CRC is the seed, so the reset value of `CRC_OUT` is the CRC of the current frame (R73). -/
theorem crc16_currentFrame_reset : crc16 (currentFrame State.reset) = State.reset.crcOut := rfl

@[simp] theorem byteAt_reset (j : Nat) : byteAt State.reset j = Config.resetByte State.reset.resets j := rfl

/-- Settles O14: the registers by evaluation, the bytes because none is written. -/
theorem stateAfterResetIsTheTable : Obligations.StateAfterResetIsTheTable :=
  ⟨rfl, rfl, rfl, rfl, rfl, rfl, status_reset, crc16_currentFrame_reset, byteAt_reset⟩

/-! ### The register port (R23) -/

/-- The port's 16 bits show the whole of `LEN`, which is at most `BUF_SIZE` (R6). -/
theorem toNat_portRead_len {s : State} (h : s.len ≤ Config.bufSize) : (portRead s 1).toNat = s.len :=
  have hfits : s.len < 2 ^ 16 := by have := Config.bufSize_le; omega
  (BitVec.toNat_ofNat s.len 16).trans (Nat.mod_eq_of_lt hfits)

theorem portRead_of_five_le (s : State) {n : Nat} (h : 5 ≤ n) : portRead s n = 0 := by
  obtain ⟨m, rfl⟩ := Nat.exists_eq_add_of_le' h
  rfl

/-- The port shows the block, not what the host has still to do. -/
@[simp] theorem portRead_setPending (s : State) (p : List HostEvent) (n : Nat) :
    portRead (setPending s p) n = portRead s n := rfl

/-- All that a read of the register port does: the event is taken and the host has the register's value. -/
theorem step_readPort {s : State} {n : Nat} {rest : List HostEvent} (h : s.pending = .readPort n :: rest) :
    step s = .next (setPortOut (setPending s rest) (portRead s n)) := by
  rw [step, takeEvent_cons h]
  simp only [hostReads, portRead_setPending]

/-- Settles O17: each register by its number, and the one step that reads the port. -/
theorem registerPortShowsTheRegisters : Obligations.RegisterPortShowsTheRegisters := by
  refine ⟨fun s => ⟨rfl, fun hlen => ⟨toNat_portRead_len hlen, ?_⟩, rfl, rfl, rfl, fun n => portRead_of_five_le s⟩,
    ⟨rfl, rfl, rfl, rfl, rfl⟩, fun s n rest => step_readPort⟩
  exact Nat.lt_of_le_of_lt hlen Config.bufSize_lt_two_pow_lenW

end Sys2Proof.Machine
end

section

namespace Sys2Proof.Machine

/-! ### The buffer commands and `STRIP` of a running block (R81, R83 to R86, R94) -/

/-- A length that fits in the buffer fits in an operand (R6). -/
theorem toNat_ofNat_of_le_bufSize {n : Nat} (h : n ≤ Config.bufSize) : (BitVec.ofNat 16 n).toNat = n :=
  Nat.mod_eq_of_lt (by have := Config.bufSize_le; omega)

theorem exec_clr {s : State} (hs : s.err = .noFault) : exec .clr s = .next (setLen s 0) :=
  whileRunning_noFault hs

theorem exec_setlen_inside {s : State} {n : Half} (hs : s.err = .noFault) (hn : n.toNat ≤ Config.bufSize) :
    exec (.setlen n) s = .next (setLen s n.toNat) :=
  (whileRunning_noFault hs).trans (if_neg (Nat.not_lt.2 hn))

theorem exec_setlen_outside {s : State} {n : Half} (hs : s.err = .noFault) (hn : Config.bufSize < n.toNat) :
    exec (.setlen n) s = .next (setErr s .indexOutOfRange) :=
  (whileRunning_noFault hs).trans ((if_pos hn).trans (raise_noFault hs))

theorem exec_wrb_inside {s : State} {i : Half} (b : Byte) (hs : s.err = .noFault) (hi : i.toNat < Config.bufSize) :
    exec (.wrb i b) s = .next (setBuf s (Memory.storeAll s.buf i.toNat [b])) :=
  calc exec (.wrb i b) s
    _ = storeBytes s i.toNat [b] fun t => .next t := (whileRunning_noFault hs).trans (if_neg (Nat.not_le.2 hi))
    _ = .next (setBuf s (Memory.storeAll s.buf i.toNat [b])) := storeBytes_inside hi

theorem exec_rdb_inside {s : State} {i : Half} (hs : s.err = .noFault) (hi : i.toNat < Config.bufSize) :
    exec (.rdb i) s = .next (setDout s (zext16 (byteAt s i.toNat))) :=
  calc exec (.rdb i) s
    _ = loadByte s i.toNat fun b => .next (setDout s (zext16 b)) :=
      (whileRunning_noFault hs).trans (if_neg (Nat.not_le.2 hi))
    _ = .next (setDout s (zext16 (byteAt s i.toNat))) := loadByte_inside hi

theorem exec_rdw_inside {s : State} {i : Half} (hs : s.err = .noFault) (hi : i.toNat + 1 < Config.bufSize) :
    exec (.rdw i) s = .next (setDout s (be16 (byteAt s i.toNat) (byteAt s (i.toNat + 1)))) :=
  calc exec (.rdw i) s
    _ = loadHalf s i.toNat fun w => .next (setDout s w) := (whileRunning_noFault hs).trans (if_neg (Nat.not_le.2 hi))
    _ = .next (setDout s (be16 (byteAt s i.toNat) (byteAt s (i.toNat + 1)))) := loadHalf_inside hi

theorem exec_strip {s : State} (hs : Running s) :
    exec .strip s = if validate (currentFrame s) then .next (setLen (setOk s true) (s.len - 2))
      else .next (setOk s false) :=
  (whileRunning_noFault hs.1).trans (loadFrame_inside hs.2)

theorem exec_strip_valid {s : State} (hs : Running s) (hv : validate (currentFrame s) = true) :
    exec .strip s = .next (setLen (setOk s true) (s.len - 2)) :=
  (exec_strip hs).trans (if_pos hv)

/-! ### The buffer after one byte is written -/

theorem byteAt_store_byte (s : State) (i : Nat) (b : Byte) (j : Nat) :
    byteAt (setBuf s (Memory.storeAll s.buf i [b])) j = if j = i then b else byteAt s j := by
  rw [byteAt_setBuf_storeAll]
  by_cases h : j = i
  · subst h
    simp
  · rw [if_neg (by simp only [List.length_singleton]; omega), if_neg h]

@[simp] theorem byteAt_store_byte_same (s : State) (i : Nat) (b : Byte) :
    byteAt (setBuf s (Memory.storeAll s.buf i [b])) i = b := by
  rw [byteAt_store_byte, if_pos rfl]

/-! ### The CRC field of a valid frame (R92) -/

theorem validate_iff {f : List Byte} :
    validate f = true ↔ 2 < f.length ∧ f.drop (f.length - 2) = littleEndian (crc16 (f.take (f.length - 2))) := by
  by_cases h : f.length ≤ 2
  · simp [validate, h, Nat.not_lt.2 h]
  · simp [validate, h, Nat.not_le.1 h]

/-- The last two bytes of the current frame, by their indices in the buffer. -/
theorem drop_currentFrame {s : State} {n : Nat} (h : s.len = n + 2) :
    (currentFrame s).drop n = [byteAt s n, byteAt s (n + 1)] := by
  rw [currentFrame, h, bytesFrom_add, List.drop_left' (length_bytesFrom s 0 n), Nat.zero_add]
  rfl

/-- A valid frame has its CRC's low byte at `LEN - 2` and the high byte after it. -/
theorem byteAt_crcField {s : State} (hv : validate (currentFrame s) = true) :
    byteAt s (s.len - 2) = lo8 (crc16 ((currentFrame s).take (s.len - 2))) ∧
    byteAt s (s.len - 2 + 1) = hi8 (crc16 ((currentFrame s).take (s.len - 2))) := by
  obtain ⟨hlen, hcrc⟩ := validate_iff.1 hv
  rw [length_currentFrame] at hlen hcrc
  rw [drop_currentFrame (by omega)] at hcrc
  obtain ⟨hlo, hhi⟩ := List.cons.inj hcrc
  exact ⟨hlo, (List.cons.inj hhi).1⟩

theorem two_lt_len_of_validate {s : State} (hv : validate (currentFrame s) = true) : 2 < s.len := by
  rw [← length_currentFrame s]
  exact (validate_iff.1 hv).1

/-! ### Byte and halfword accesses (R34) -/

theorem exec_rdw_at_stored_byte {s : State} {i : Half} {b : Byte} (hs : s.err = .noFault)
    (hi : i.toNat + 1 < Config.bufSize) :
    ∃ u, exec (.rdw i) (setBuf s (Memory.storeAll s.buf i.toNat [b])) = .next u ∧ hi8 u.dout = b := by
  refine ⟨_, exec_rdw_inside hs hi, ?_⟩
  rw [setDout_dout, hi8_be16, byteAt_store_byte_same]

theorem exec_rdw_before_stored_byte {s : State} {i : Half} {b : Byte} (hs : s.err = .noFault)
    (hi : i.toNat < Config.bufSize) (hpos : 0 < i.toNat) :
    ∃ u, exec (.rdw (i - 1)) (setBuf s (Memory.storeAll s.buf i.toNat [b])) = .next u ∧ lo8 u.dout = b := by
  have hbefore : (i - 1).toNat + 1 = i.toNat := by bv_omega
  refine ⟨_, exec_rdw_inside hs (by omega), ?_⟩
  rw [setDout_dout, lo8_be16, hbefore, byteAt_store_byte_same]

/-- `RDW` at the CRC field takes the low byte, which lies first, as the more significant one. -/
theorem exec_rdw_crcField {s : State} (hs : Running s) (hv : validate (currentFrame s) = true) :
    ∃ t, exec (.rdw (BitVec.ofNat 16 (s.len - 2))) s = .next t ∧
      t.dout = be16 (lo8 (crc16 ((currentFrame s).take (s.len - 2)))) (hi8 (crc16 ((currentFrame s).take (s.len - 2)))) := by
  obtain ⟨herr, hle⟩ := hs
  obtain ⟨hlo, hhi⟩ := byteAt_crcField hv
  have hlen := two_lt_len_of_validate hv
  have hidx : (BitVec.ofNat 16 (s.len - 2)).toNat = s.len - 2 := toNat_ofNat_of_le_bufSize (by omega)
  refine ⟨_, exec_rdw_inside herr (by omega), ?_⟩
  rw [setDout_dout, hidx, hlo, hhi]

/-- Settles O27: each clause is `RDW`'s effect, with what the bytes it reads are known to be. -/
theorem byteAndHalfwordAccessesAgree : Obligations.ByteAndHalfwordAccessesAgree := by
  refine ⟨fun s i hs hi => exec_rdw_inside hs.1 hi, fun s i b hs hi => ?_, fun s => exec_rdw_crcField⟩
  exact ⟨_, exec_wrb_inside b hs.1 hi, exec_rdw_at_stored_byte hs.1, exec_rdw_before_stored_byte hs.1 hi⟩

/-! ### The bytes at and beyond `LEN` (R43) -/

theorem exec_clr_byteAt {s t : State} (h : exec .clr s = .next t) (j : Nat) : byteAt t j = byteAt s j := by
  obtain ⟨-, rfl⟩ | ⟨-, hrun⟩ := whileRunning_next.1 h
  · rfl
  · cases hrun
    rfl

theorem exec_strip_byteAt {s t : State} (h : exec .strip s = .next t) (j : Nat) : byteAt t j = byteAt s j := by
  obtain ⟨-, rfl⟩ | ⟨-, hrun⟩ := whileRunning_next.1 h
  · rfl
  · obtain ⟨-, hverdict⟩ := loadFrame_next.1 hrun
    split at hverdict
    · cases hverdict
      rfl
    · cases hverdict
      rfl

theorem exec_setlen_byteAt {s t : State} {n : Half} (h : exec (.setlen n) s = .next t) (j : Nat) :
    byteAt t j = byteAt s j := by
  by_cases hs : s.err = .noFault
  · by_cases hn : n.toNat ≤ Config.bufSize
    · cases (exec_setlen_inside hs hn).symm.trans h
      rfl
    · cases (exec_setlen_outside hs (Nat.not_le.1 hn)).symm.trans h
      rfl
  · cases (whileRunning_faulted hs).symm.trans h
    rfl

/-- What remains after `STRIP` is the body, and the CRC it was checked against still stands behind it. -/
theorem exec_strip_keeps_crcField {s : State} (hs : Running s) (hv : validate (currentFrame s) = true) :
    ∃ t, exec .strip s = .next t ∧
      byteAt t t.len = lo8 (crc16 (currentFrame t)) ∧ byteAt t (t.len + 1) = hi8 (crc16 (currentFrame t)) := by
  refine ⟨_, exec_strip_valid hs hv, ?_⟩
  have hbody : currentFrame (setLen (setOk s true) (s.len - 2)) = (currentFrame s).take (s.len - 2) := by
    rw [currentFrame_setLen (s := setOk s true) (Nat.sub_le s.len 2), currentFrame_setOk]
  rw [hbody]
  exact byteAt_crcField hv

/-- `CLR` loses only the length, so setting it again gives the very state there was. -/
theorem exec_clr_then_setlen {s : State} (hs : Running s) :
    exec .clr s = .next (setLen s 0) ∧ exec (.setlen (BitVec.ofNat 16 s.len)) (setLen s 0) = .next s := by
  obtain ⟨herr, hle⟩ := hs
  have hlen : (BitVec.ofNat 16 s.len).toNat = s.len := toNat_ofNat_of_le_bufSize hle
  have hset := exec_setlen_inside (s := setLen s 0) herr (hlen.trans_le hle)
  rw [hlen] at hset
  exact ⟨exec_clr herr, hset⟩

/-- Settles O29: an access inside the buffer never looks at `LEN`, and a change of `LEN` never touches a byte. -/
theorem bytesBeyondTheLengthAreKept : Obligations.BytesBeyondTheLengthAreKept := by
  refine ⟨fun s i b hs hi => ?accesses, fun i s t hi h => ?bytes, fun s => exec_strip_keeps_crcField, fun s hs => ?restored⟩
  case accesses => exact ⟨⟨_, exec_rdb_inside hs.1 hi, hs.1⟩, _, exec_wrb_inside b hs.1 hi, hs.1⟩
  case bytes =>
    obtain rfl | rfl | ⟨n, rfl⟩ := hi
    · exact exec_clr_byteAt h
    · exact exec_strip_byteAt h
    · exact exec_setlen_byteAt h
  case restored =>
    obtain ⟨hclr, hset⟩ := exec_clr_then_setlen hs
    exact ⟨_, s, hclr, hset, rfl⟩

end Sys2Proof.Machine
end

section

namespace Sys2Proof.Machine

/-! ### The decoder, row by row (R55 to R58) -/

/-- An opcode with its format and the command it makes of the fields `a`, `r` and `v`. -/
structure DecodeRow where
  op : Byte
  format : Format
  build : Byte → Half → Half → Instr

/-- The command a row makes of a word's own fields. -/
def DecodeRow.instrOf (row : DecodeRow) (w : CommandWord) : Instr := row.build (aField w) (rField w) (vField w)

/-- The rows of `decode`; `decode_cases` says that it answers by them alone. -/
def decodeRows : List DecodeRow :=
  [⟨0x00, .N, fun _ _ _ => .nop⟩, ⟨0x10, .N, fun _ _ _ => .clr⟩, ⟨0x11, .B, fun a _ _ => .push a⟩,
   ⟨0x12, .I, fun _ r _ => .setlen r⟩, ⟨0x13, .IB, fun a r _ => .wrb r a⟩, ⟨0x14, .I, fun _ r _ => .rdb r⟩,
   ⟨0x15, .I, fun _ r _ => .rdw r⟩, ⟨0x20, .N, fun _ _ _ => .crc⟩, ⟨0x21, .N, fun _ _ _ => .append⟩,
   ⟨0x22, .N, fun _ _ _ => .validate⟩, ⟨0x23, .N, fun _ _ _ => .strip⟩, ⟨0x30, .B, fun a _ _ => .init a⟩,
   ⟨0x31, .F, .bldrd⟩, ⟨0x32, .F, .bldwr⟩]

theorem decode_of_row {w : CommandWord} {row : DecodeRow} (hrow : row ∈ decodeRows) (hop : opField w = row.op) :
    decode w = accept row.format w (row.instrOf w) := by
  fin_cases hrow <;> (rw [decode, hop]; rfl)

theorem decode_of_no_row {w : CommandWord} (h : ∀ row ∈ decodeRows, opField w ≠ row.op) :
    decode w = .illegal .unassignedOpcode := by
  simp only [decodeRows, List.forall_mem_cons, ne_eq, ← BitVec.toNat_inj] at h
  unfold decode
  split <;> simp_all

/-- All that `decode` can answer. -/
theorem decode_cases (w : CommandWord) :
    (∃ row ∈ decodeRows, opField w = row.op ∧ decode w = accept row.format w (row.instrOf w)) ∨
    (∀ row ∈ decodeRows, opField w ≠ row.op) ∧ decode w = .illegal .unassignedOpcode := by
  by_cases h : ∃ row ∈ decodeRows, opField w = row.op
  · obtain ⟨row, hrow, hop⟩ := h
    exact .inl ⟨row, hrow, hop, decode_of_row hrow hop⟩
  · have hno : ∀ row ∈ decodeRows, opField w ≠ row.op := fun row hrow hop => h ⟨row, hrow, hop⟩
    exact .inr ⟨hno, decode_of_no_row hno⟩

theorem instr?_accept (f : Format) (w : CommandWord) (i : Instr) :
    (accept f w i).instr? = if reservedZero f w then some i else none := by
  rw [accept]
  split <;> rfl

theorem accept_eq_command {f : Format} {w : CommandWord} {i j : Instr} :
    accept f w i = .command j ↔ reservedZero f w = true ∧ i = j := by
  cases h : reservedZero f w <;> simp [accept, h]

/-! ### Decoding and encoding (R60) -/

theorem decode_encode (i : Instr) : decode (encode i) = .command i := by
  cases i <;> simp [encode, decode, accept, reservedZero]

/-- A command has its opcode and its operands in their fields, and zeros where its format reserves a field. -/
theorem encode_instrOf {w : CommandWord} {row : DecodeRow} (hrow : row ∈ decodeRows) (hop : opField w = row.op)
    (hzero : reservedZero row.format w = true) : encode (row.instrOf w) = w := by
  rw [← joinFields_fields w, hop]
  fin_cases hrow <;> simp_all [reservedZero, encode, DecodeRow.instrOf]

theorem encode_of_decode {w : CommandWord} {i : Instr} (h : decode w = .command i) : encode i = w := by
  obtain ⟨row, hrow, hop, hdec⟩ | ⟨-, hdec⟩ := decode_cases w
  · obtain ⟨hzero, rfl⟩ := accept_eq_command.1 (hdec.symm.trans h)
    exact encode_instrOf hrow hop hzero
  · cases hdec.symm.trans h

/-- Each command has one word. -/
theorem decode_eq_command_iff {w : CommandWord} {i : Instr} : decode w = .command i ↔ w = encode i :=
  ⟨fun h => (encode_of_decode h).symm, fun h => h ▸ decode_encode i⟩

/-- Settles O1: a word of a row meets that row's condition exactly when its reserved fields are zero, and no word meets
another row's; a word of no row meets none. -/
theorem decodingIsTheFieldConditionsAndInvertsEncoding :
    Obligations.DecodingIsTheFieldConditionsAndInvertsEncoding := by
  refine ⟨?_, decode_encode⟩
  rintro w op a r v hop rfl rfl rfl
  obtain ⟨row, hrow, hw, hdec⟩ | ⟨hno, hdec⟩ := decode_cases w
  · rw [hdec, instr?_accept, hop, hw]
    fin_cases hrow <;> simp [reservedZero, DecodeRow.instrOf, and_assoc]
  · simp only [decodeRows, List.forall_mem_cons, ← hop, ne_eq] at hno
    simp only [hdec, hno, false_and, if_false]
    rfl

/-! ### The fields as numbers (R54) -/

theorem toNat_fields (w : CommandWord) :
    (opField w).toNat = w.toNat / 2 ^ 40 ∧ (aField w).toNat = w.toNat / 2 ^ 32 % 2 ^ 8 ∧
    (rField w).toNat = w.toNat / 2 ^ 16 % 2 ^ 16 ∧ (vField w).toNat = w.toNat % 2 ^ 16 := by
  have hop : w.toNat / 2 ^ 40 < 2 ^ 8 := by omega
  simp only [opField, aField, rField, vField, BitVec.extractLsb'_toNat, Nat.shiftRight_eq_div_pow,
    Nat.mod_eq_of_lt hop, Nat.pow_zero, Nat.div_one, and_self]

theorem toNat_joinFields (op a : Byte) (r v : Half) :
    (joinFields op a r v).toNat = op.toNat * 2 ^ 40 + a.toNat * 2 ^ 32 + r.toNat * 2 ^ 16 + v.toNat := by
  have h := toNat_fields (joinFields op a r v)
  simp only [opField_joinFields, aField_joinFields, rField_joinFields, vField_joinFields] at h
  omega

theorem toNat_joinFields_mod (op a : Byte) (r v : Half) :
    (joinFields op a r v).toNat % 2 ^ 40 = a.toNat * 2 ^ 32 + r.toNat * 2 ^ 16 + v.toNat := by
  rw [toNat_joinFields]
  omega

/-- Settles O3: the fields of any word, and a build command's word as its fields. -/
theorem fieldsSitAtTheirFixedPositions : Obligations.FieldsSitAtTheirFixedPositions :=
  ⟨toNat_fields, fun a r v => ⟨toNat_joinFields_mod 0x31 a r v, toNat_joinFields_mod 0x32 a r v⟩⟩

/-! ### Illegal words (R57, R58) -/

/-- All that an illegal word does: the event is taken and `ERR` is set. -/
theorem step_illegal {s : State} {w : CommandWord} {why : IllegalWord} {rest : List HostEvent}
    (hw : decode w = .illegal why) (hs : s.err = .noFault) (hp : s.pending = .command w :: rest) :
    step s = .next { s with pending := rest, err := .illegalCommand } := by
  rw [step, takeEvent_cons hp]
  simp only [hw]
  exact raise_noFault hs

theorem assigned_eq_decodeRows : Statements.assigned = decodeRows.map fun row => (row.op, row.format) := rfl

theorem isAssigned_eq_false_iff {op : Byte} :
    Statements.isAssigned op = false ↔ ∀ row ∈ decodeRows, op ≠ row.op := by
  simp only [Statements.isAssigned, assigned_eq_decodeRows, List.any_map, List.any_eq_false, Function.comp_apply,
    beq_iff_eq, ne_eq, eq_comm (a := op)]

theorem decode_of_reserved {w : CommandWord} {f : Format} (hop : (opField w, f) ∈ Statements.assigned)
    (hzero : reservedZero f w = false) : decode w = .illegal .reservedNotZero := by
  rw [assigned_eq_decodeRows] at hop
  obtain ⟨row, hrow, heq⟩ := List.mem_map.1 hop
  obtain ⟨hrop, rfl⟩ := Prod.mk.inj heq
  rw [decode_of_row hrow hrop.symm, accept, hzero]
  rfl

/-- Settles O5: a reserved field that is not zero makes the word illegal, and that is all the step needs. -/
theorem nonZeroReservedFieldRaisesIllegalCommand : Obligations.NonZeroReservedFieldRaisesIllegalCommand :=
  ⟨fun _ _ _ _ hop hzero => step_illegal (decode_of_reserved hop hzero), by decide⟩

/-- The unassigned opcodes are the four gaps between the assigned ones (R58). -/
theorem isAssigned_eq_false_iff_gaps (op : Byte) : Statements.isAssigned op = false ↔
    (0x01 ≤ op ∧ op ≤ 0x0F) ∨ (0x16 ≤ op ∧ op ≤ 0x1F) ∨ (0x24 ≤ op ∧ op ≤ 0x2F) ∨ 0x33 ≤ op := by
  simp only [isAssigned_eq_false_iff, decodeRows, List.forall_mem_cons, List.not_mem_nil, false_imp_iff, implies_true,
    and_true]
  bv_omega

theorem length_unassigned :
    ((List.range 256).filter fun n => !Statements.isAssigned (BitVec.ofNat 8 n)).length = 242 := by
  decide +kernel

/-- Settles O6: an unassigned opcode is of no row, `NOP`'s word is its encoding, and `decode` is total. -/
theorem unassignedOpcodeRaisesIllegalCommand : Obligations.UnassignedOpcodeRaisesIllegalCommand := by
  refine ⟨fun w s rest hop => step_illegal (decode_of_no_row (isAssigned_eq_false_iff.1 hop)),
    isAssigned_eq_false_iff_gaps, length_unassigned, fun w => decode_eq_command_iff, fun w => ?_⟩
  cases hw : decode w with
  | command i => exact .inl ⟨i, rfl⟩
  | illegal why => exact .inr fun s rest => step_illegal hw

end Sys2Proof.Machine
end

section

namespace Sys2Proof.Machine

/-! ### The fields of the current frame, read back (R52) -/

@[simp] theorem lo8_zext16 (b : Byte) : lo8 (zext16 b) = b := by
  simp [lo8, zext16, BitVec.extractLsb'_setWidth_of_le]

theorem getElem?_currentFrame_of_lt {s : State} {k : Nat} (h : k < s.len) :
    (currentFrame s)[k]? = some (byteAt s k) := by
  rw [getElem?_currentFrame, if_pos h]

theorem frameHalf_currentFrame {s : State} {k : Nat} (h : k + 1 < s.len) :
    frameHalf (currentFrame s) k = some (be16 (byteAt s k) (byteAt s (k + 1))) := by
  simp only [frameHalf, getElem?_currentFrame_of_lt h, getElem?_currentFrame_of_lt (Nat.lt_of_succ_lt h)]

/-- The CRC field stands low byte first, so its last byte is the high one (R32). -/
theorem frameCrc_currentFrame {s : State} (h : 2 ≤ s.len) :
    frameCrc (currentFrame s) = some (be16 (byteAt s (s.len - 1)) (byteAt s (s.len - 2))) := by
  have hlo : s.len - 2 < s.len := by omega
  have hhi : s.len - 1 < s.len := by omega
  simp only [frameCrc, length_currentFrame, if_neg (Nat.not_lt.2 h), getElem?_currentFrame_of_lt hlo,
    getElem?_currentFrame_of_lt hhi]

/-- `RDB` at an index of the current frame gives that byte in `DOUT[7:0]`. -/
theorem exec_rdb_currentFrame {s : State} {i : Half} {k : Nat} (hs : Running s) (hi : i.toNat = k) (hk : k < s.len) :
    ∃ t, exec (.rdb i) s = .next t ∧ lo8 t.dout = byteAt s k := by
  subst hi
  exact ⟨_, exec_rdb_inside hs.1 (hk.trans_le hs.2), lo8_zext16 _⟩

theorem exec_rdb_frameByte {s : State} {i : Half} {k : Nat} (hs : Running s) (hi : i.toNat = k) (hk : k < s.len) :
    ∃ t, exec (.rdb i) s = .next t ∧ (currentFrame s)[k]? = some (lo8 t.dout) := by
  obtain ⟨t, ht, hdout⟩ := exec_rdb_currentFrame hs hi hk
  exact ⟨t, ht, by rw [hdout, getElem?_currentFrame_of_lt hk]⟩

/-- `RDW` at two indices of the current frame gives the 16-bit field there. -/
theorem exec_rdw_frameHalf {s : State} {i : Half} {k : Nat} (hs : Running s) (hi : i.toNat = k) (hk : k + 1 < s.len) :
    ∃ t, exec (.rdw i) s = .next t ∧ frameHalf (currentFrame s) k = some t.dout := by
  subst hi
  exact ⟨_, exec_rdw_inside hs.1 (hk.trans_le hs.2), frameHalf_currentFrame hk⟩

/-- Settles O52: every field is a byte or a 16-bit field at an index that fits an operand, since `LEN` does. -/
theorem readCommandsGiveTheFieldsOfTheFrame : Obligations.ReadCommandsGiveTheFieldsOfTheFrame := by
  intro s hs
  have hidx : ∀ k, k < s.len → (BitVec.ofNat 16 k).toNat = k :=
    fun k hk => toNat_ofNat_of_le_bufSize (hk.le.trans hs.2)
  refine ⟨exec_rdb_frameByte hs rfl, exec_rdb_frameByte hs rfl, exec_rdw_frameHalf hs rfl, exec_rdw_frameHalf hs rfl,
    exec_rdb_frameByte hs rfl, fun k hk => ?dataWord, fun hlen => ?crcField⟩
  case dataWord => exact exec_rdw_frameHalf hs (hidx _ (by omega)) (by omega)
  case crcField =>
    have hlo : s.len - 2 < s.len := by omega
    have hhi : s.len - 1 < s.len := by omega
    obtain ⟨t, ht, htdout⟩ := exec_rdb_currentFrame hs (hidx _ hlo) hlo
    obtain ⟨u, hu, hudout⟩ := exec_rdb_currentFrame hs (hidx _ hhi) hhi
    exact ⟨t, u, ht, hu, by rw [htdout, hudout, frameCrc_currentFrame hlen]⟩

end Sys2Proof.Machine
end

section

namespace Sys2Proof.Machine

/-! ### Command sequences (R130) -/

theorem execAll_cons {s t : State} {i : Instr} (h : exec i s = .next t) (is : List Instr) :
    execAll (i :: is) s = execAll is t := by
  rw [execAll, h]

theorem execAll_append {s t : State} {is : List Instr} (h : execAll is s = .next t) (js : List Instr) :
    execAll (is ++ js) s = execAll js t := by
  induction is generalizing s with
  | nil =>
    cases h
    rfl
  | cons i is ih =>
    rw [List.cons_append]
    cases hi : exec i s with
    | next u =>
      rw [execAll_cons hi] at h
      rw [execAll_cons hi]
      exact ih h
    | fault r =>
      rw [execAll, hi] at h
      cases h
    | refused r =>
      rw [execAll, hi] at h
      cases h

/-- The last command of a sequence runs in the state the others leave. -/
theorem execAll_concat {s t u : State} {is : List Instr} {i : Instr} (h : execAll is s = .next t)
    (hi : exec i t = .next u) : execAll (is ++ [i]) s = .next u := by
  rw [execAll_append h, execAll_cons hi]
  rfl

/-! ### The commands the pseudo-commands use (R82, R91, R93) -/

theorem exec_push_inside {s : State} (b : Byte) (hs : s.err = .noFault) (hlen : s.len < Config.bufSize) :
    exec (.push b) s = .next (setLen (setBuf s (Memory.storeAll s.buf s.len [b])) (s.len + 1)) :=
  calc exec (.push b) s
    _ = storeBytes s s.len [b] fun t => .next (setLen t (s.len + 1)) :=
      (whileRunning_noFault hs).trans (if_neg hlen.ne)
    _ = .next (setLen (setBuf s (Memory.storeAll s.buf s.len [b])) (s.len + 1)) := storeBytes_inside hlen

theorem exec_append_inside {s : State} (hs : s.err = .noFault) (hlen : s.len + 2 ≤ Config.bufSize) :
    exec .append s =
      .next (setLen (setBuf s (Memory.storeAll s.buf s.len (littleEndian (crc16 (currentFrame s))))) (s.len + 2)) :=
  calc exec .append s
    _ = loadFrame s fun frame => storeBytes s s.len (littleEndian (crc16 frame)) fun t => .next (setLen t (s.len + 2)) :=
      (whileRunning_noFault hs).trans (if_neg (Nat.not_lt.2 hlen))
    _ = storeBytes s s.len (littleEndian (crc16 (currentFrame s))) fun t => .next (setLen t (s.len + 2)) :=
      loadFrame_inside (Nat.le_of_add_right_le hlen)
    _ = _ := storeBytes_inside hlen

theorem exec_validate {s : State} (hs : Running s) :
    exec .validate s = .next (setOk s (validate (currentFrame s))) :=
  (whileRunning_noFault hs.1).trans (loadFrame_inside hs.2)

theorem exec_clr_eq_setlen_zero (s : State) : exec .clr s = exec (.setlen 0) s := by
  by_cases hs : s.err = .noFault
  · rw [exec_clr hs, exec_setlen_inside hs (Nat.zero_le _)]
    rfl
  · exact (whileRunning_faulted hs).trans (whileRunning_faulted hs).symm

/-! ### What they do to the current frame -/

/-- `PUSH` puts its byte after the current frame. -/
theorem exec_push_currentFrame {s : State} (b : Byte) (hs : s.err = .noFault) (hlen : s.len < Config.bufSize) :
    ∃ t, exec (.push b) s = .next t ∧ currentFrame t = currentFrame s ++ [b] ∧ t.len = s.len + 1 ∧ t.err = .noFault :=
  ⟨_, exec_push_inside b hs hlen, currentFrame_append s [b], rfl, hs⟩

theorem exec_append_currentFrame {s : State} (hs : s.err = .noFault) (hlen : s.len + 2 ≤ Config.bufSize) :
    ∃ t, exec .append s = .next t ∧ currentFrame t = appendCrc (currentFrame s) :=
  ⟨_, exec_append_inside hs hlen, currentFrame_append s (littleEndian (crc16 (currentFrame s)))⟩

/-- A `PUSH` of each byte puts the bytes after the current frame, in order. -/
theorem execAll_pushes {bs : List Byte} {s : State} (hs : s.err = .noFault)
    (hlen : s.len + bs.length ≤ Config.bufSize) :
    ∃ t, execAll (bs.map .push) s = .next t ∧ currentFrame t = currentFrame s ++ bs ∧ t.err = .noFault := by
  induction bs generalizing s with
  | nil => exact ⟨s, rfl, (List.append_nil _).symm, hs⟩
  | cons b bs ih =>
    rw [List.length_cons] at hlen
    obtain ⟨u, hu, huframe, hulen, huerr⟩ := exec_push_currentFrame b hs (by omega)
    obtain ⟨t, ht, htframe, hterr⟩ := ih huerr (by omega)
    refine ⟨t, ?_, ?_, hterr⟩
    · rw [List.map_cons, execAll_cons hu, ht]
    · rw [htframe, huframe, List.append_assoc, List.singleton_append]

/-- `CLR` and a `PUSH` of each byte leave the bytes as the current frame, whatever it was before. -/
theorem execAll_clr_pushes {bs : List Byte} {s : State} (hs : s.err = .noFault) (hlen : bs.length ≤ Config.bufSize) :
    ∃ t, execAll (.clr :: bs.map .push) s = .next t ∧ currentFrame t = bs ∧ t.err = .noFault := by
  have hempty : (setLen s 0).len + bs.length ≤ Config.bufSize := by rwa [setLen_len, Nat.zero_add]
  obtain ⟨t, ht, hframe, herr⟩ := execAll_pushes (s := setLen s 0) hs hempty
  exact ⟨t, (execAll_cons (exec_clr hs) _).trans ht, hframe, herr⟩

/-! ### The pseudo-commands (R63) -/

theorem loadCommands_toNat (bs : List Byte) : loadCommands (bs.map (·.toNat)) = .clr :: bs.map .push := by
  simp [loadCommands]

theorem execAll_load {bs : List Byte} {s : State} (hlen : bs.length ≤ Config.bufSize) (hs : s.err = .noFault) :
    ∃ t, execAll (loadCommands (bs.map (·.toNat))) s = .next t ∧ currentFrame t = bs ∧ t.err = .noFault := by
  rw [loadCommands_toNat]
  exact execAll_clr_pushes hs hlen

theorem execAll_frame {bs : List Byte} {s : State} (hlen : bs.length + 2 ≤ Config.bufSize) (hs : s.err = .noFault) :
    ∃ t, execAll (loadCommands (bs.map (·.toNat)) ++ [.append]) s = .next t ∧ currentFrame t = appendCrc bs := by
  obtain ⟨u, hu, rfl, huerr⟩ := execAll_load (Nat.le_of_add_right_le hlen) hs
  rw [length_currentFrame] at hlen
  obtain ⟨t, ht, htframe⟩ := exec_append_currentFrame huerr hlen
  exact ⟨t, execAll_concat hu ht, htframe⟩

theorem execAll_check {bs : List Byte} {s : State} (hlen : bs.length ≤ Config.bufSize) (hs : s.err = .noFault) :
    ∃ t, execAll (loadCommands (bs.map (·.toNat)) ++ [.validate]) s = .next t ∧ currentFrame t = bs ∧
      t.ok = validate bs := by
  obtain ⟨u, hu, rfl, huerr⟩ := execAll_load hlen hs
  rw [length_currentFrame] at hlen
  exact ⟨_, execAll_concat hu (exec_validate ⟨huerr, hlen⟩), currentFrame_setOk u _, rfl⟩

/-- Settles O55: the expansions, then each sequence run from `CLR` on. -/
theorem pseudoCommandsExpandAsStated : Obligations.PseudoCommandsExpandAsStated := by
  refine ⟨fun bs => ?expansions, fun bs s => execAll_load, fun bs s => execAll_frame, fun bs s => execAll_check,
    exec_clr_eq_setlen_zero, by decide⟩
  case expansions =>
    simp only [expandInRange, loadCommands_toNat, List.length_cons, List.length_map, and_self]

end Sys2Proof.Machine
end

section

namespace Sys2Proof.Machine

/-! ### The table and the fold (R70 to R73) -/

theorem crcRounds_eq_iterate (n : Nat) (c : Half) : crcRounds n c = crcRound^[n] c := by
  induction n generalizing c with
  | zero => rfl
  | succ n ih => exact ih (crcRound c)

theorem crcTable_eq_map_tableEntry : crcTable = (List.range 256).map fun n => tableEntry (BitVec.ofNat 8 n) := by
  decide +kernel

theorem length_crcTable : crcTable.length = 256 := by
  rw [crcTable_eq_map_tableEntry, List.length_map, List.length_range]

/-- Every entry of R71's listing is the one R70 generates from its index. -/
theorem crcTableAt_eq_tableEntry (k : Byte) : crcTableAt k = tableEntry k := by
  have hentry : crcTable[k.toNat]? = some (tableEntry k) := by
    rw [crcTable_eq_map_tableEntry, List.getElem?_map, List.getElem?_range k.isLt, Option.map_some,
      BitVec.ofNat_toNat, BitVec.setWidth_eq]
  rw [crcTableAt, List.getD_eq_getElem?_getD, hentry, Option.getD_some]

/-- Settles O30: the listing compared with the generated table once, then eight rounds as an iterate. -/
theorem listedTableIsGeneratedFromThePolynomial : Obligations.ListedTableIsGeneratedFromThePolynomial := by
  refine ⟨fun k => ?generated, length_crcTable, rfl, rfl, rfl, rfl, rfl, rfl⟩
  case generated => exact (crcTableAt_eq_tableEntry k).trans (crcRounds_eq_iterate 8 (zext16 k))

theorem crcFold_eq_foldl (crc : Half) (s : List Byte) : crcFold crc s = s.foldl crcStep crc := by
  induction s generalizing crc with
  | nil => rfl
  | cons b s ih => exact ih (crcStep crc b)

/-- Settles O31: `crc16` is the fold of `crcStep`, which is the obligation's step. -/
theorem crcFoldsTheBytesFromTheSeed : Obligations.CrcFoldsTheBytesFromTheSeed :=
  ⟨crcFold_eq_foldl crcSeed, rfl⟩

/-! ### A frame with its CRC field has CRC 0 (R78) -/

@[simp] theorem lo8_xor (x y : Half) : lo8 (x ^^^ y) = lo8 x ^^^ lo8 y :=
  BitVec.extractLsb'_xor

/-- The high byte is the low byte once the low one is shifted out. -/
theorem lo8_shiftRight_eight (w : Half) : lo8 (w >>> 8) = hi8 w := by
  ext i hi
  simp [lo8, hi8]

theorem crcTableAt_zero : crcTableAt 0#8 = 0#16 := rfl

/-- The low byte of the running value cancels against an equal byte, and entry 0 of the table is zero: the step only
shifts. -/
theorem crcStep_lo8 (c : Half) : crcStep c (lo8 c) = c >>> 8 := by
  rw [crcStep, lo8_xor, lo8_zext16, BitVec.xor_self, crcTableAt_zero, BitVec.xor_zero]

theorem crcStep_hi8 (c : Half) : crcStep (c >>> 8) (hi8 c) = 0 := by
  rw [← lo8_shiftRight_eight, crcStep_lo8, ← BitVec.shiftRight_add]
  exact BitVec.ushiftRight_eq_zero (Nat.le_refl 16)

theorem crcFold_littleEndian (c : Half) : crcFold c (littleEndian c) = 0 := by
  simp only [littleEndian, crcFold, crcStep_lo8, crcStep_hi8]

@[simp] theorem crc16_appendCrc (s : List Byte) : crc16 (appendCrc s) = 0 := by
  rw [crc16, appendCrc, crcFold_append]
  exact crcFold_littleEndian (crc16 s)

/-- A valid frame is the bytes before its CRC field with their CRC appended. -/
theorem appendCrc_take_of_validate {f : List Byte} (hv : validate f = true) : appendCrc (f.take (f.length - 2)) = f := by
  obtain ⟨-, hfield⟩ := validate_iff.1 hv
  rw [appendCrc, ← hfield, List.take_append_drop]

theorem crc16_eq_zero_of_validate {f : List Byte} (hv : validate f = true) : crc16 f = 0 := by
  rw [← appendCrc_take_of_validate hv, crc16_appendCrc]

/-! ### The `CRC` command (R77) -/

theorem exec_crc {s : State} (hs : Running s) : exec .crc s = .next (setCrcOut s (crc16 (currentFrame s))) :=
  (whileRunning_noFault hs.1).trans (loadFrame_inside hs.2)

theorem exec_crc_of_crc16_eq {s : State} {c : Half} (hs : Running s) (hc : crc16 (currentFrame s) = c) :
    exec .crc s = .next (setCrcOut s c) := by
  rw [exec_crc hs, hc]

/-- All that `CRC` can answer next: a stopped block stays as it is, a running one latches the CRC. -/
theorem exec_crc_next {s t : State} (h : exec .crc s = .next t) :
    (s.err ≠ .noFault ∧ t = s) ∨ (Running s ∧ t = setCrcOut s (crc16 (currentFrame s))) := by
  obtain hstopped | ⟨herr, hrun⟩ := whileRunning_next.1 h
  · exact .inl hstopped
  · obtain ⟨hle, heq⟩ := loadFrame_next.1 hrun
    exact .inr ⟨⟨herr, hle⟩, (Host.Outcome.next.inj heq).symm⟩

/-- `CRC` does not change the frame it reads, so a second `CRC` latches what is already there. -/
theorem exec_crc_idempotent {s t : State} (h : exec .crc s = .next t) : exec .crc t = .next t := by
  obtain ⟨herr, rfl⟩ | ⟨hs, rfl⟩ := exec_crc_next h
  · exact h
  · have hagain := exec_crc (s := setCrcOut s (crc16 (currentFrame s))) hs
    rw [currentFrame_setCrcOut] at hagain
    exact hagain

/-- `CRC` has no operand, so every other word with its opcode has a reserved field that is not zero (R57). -/
theorem decode_crc_reserved {w : CommandWord} (hop : opField w = 0x20) (hw : w ≠ encode .crc) :
    decode w = .illegal .reservedNotZero := by
  have hassigned : (opField w, Format.N) ∈ Statements.assigned := by rw [hop]; decide
  refine decode_of_reserved hassigned (Bool.eq_false_iff.2 fun hzero => hw ?_)
  exact (encode_instrOf (row := ⟨0x20, .N, fun _ _ _ => .crc⟩) (by simp [decodeRows]) hop hzero).symm

/-- Settles O34: each case of the frame is the command's one effect with that frame's CRC. -/
theorem crcCommandLatchesTheCrcOfTheFrame : Obligations.CrcCommandLatchesTheCrcOfTheFrame := by
  refine ⟨rfl, fun s => whileRunning_faulted, fun s => exec_crc, fun w => decode_crc_reserved,
    fun s hs hlen => exec_crc_of_crc16_eq hs ?emptyFrame, fun s hs hv => exec_crc_of_crc16_eq hs (crc16_eq_zero_of_validate hv),
    fun s t => exec_crc_idempotent, fun s hs hframe => exec_crc_of_crc16_eq hs ?exampleFrame, by decide⟩
  case emptyFrame =>
    rw [currentFrame, hlen]
    rfl
  case exampleFrame =>
    rw [hframe]
    decide

end Sys2Proof.Machine
end

section

namespace Sys2Proof.Machine

/-! ### What the buffer commands' proofs share -/

/-- The bounds test that opens a running command's meaning: where it fails, the command only enters its fault (R108). -/
theorem whileRunning_raise {s : State} {e : ErrCode} {outside : Prop} [Decidable outside] {k : Result}
    (hs : s.err = .noFault) (h : outside) :
    whileRunning s (if outside then raise e s else k) = .next (setErr s e) := by
  rw [whileRunning_noFault hs, if_pos h, raise_noFault hs]

theorem byteAt_store_byte_of_ne {s : State} {i j : Nat} (b : Byte) (h : j ≠ i) :
    byteAt (setBuf s (Memory.storeAll s.buf i [b])) j = byteAt s j := by
  rw [byteAt_store_byte, if_neg h]

/-- A byte known of the current frame is that byte of the buffer. -/
theorem byteAt_of_getElem?_currentFrame {s : State} {k : Nat} {b : Byte} (h : (currentFrame s)[k]? = some b) :
    byteAt s k = b := by
  rw [getElem?_currentFrame] at h
  exact Option.some.inj (Option.ite_none_right_eq_some.1 h).2

/-- An index below the least `BUF_SIZE` is inside every buffer (R6). -/
theorem lt_bufSize_of_lt {k : Nat} (h : k < 25) : k < Config.bufSize := h.trans_le Config.bufSize_ge

/-! ### `PUSH` (R82) -/

theorem exec_push_full {s : State} (b : Byte) (hs : s.err = .noFault) (hlen : s.len = Config.bufSize) :
    exec (.push b) s = .next (setErr s .bufferOverflow) :=
  whileRunning_raise hs hlen

theorem exec_push_bytes {s : State} (b : Byte) (hs : s.err = .noFault) (hlen : s.len < Config.bufSize) :
    ∃ t, exec (.push b) s = .next t ∧ t = { s with buf := t.buf, len := s.len + 1 } ∧ byteAt t s.len = b ∧
      ∀ j, j ≠ s.len → byteAt t j = byteAt s j :=
  ⟨_, exec_push_inside b hs hlen, rfl, byteAt_store_byte_same s s.len b, fun _ => byteAt_store_byte_of_ne b⟩

/-- The last byte of the buffer is pushed without a fault. -/
theorem exec_push_lastByte {s : State} (b : Byte) (hs : s.err = .noFault) (hlen : s.len + 1 = Config.bufSize) :
    ∃ t, exec (.push b) s = .next t ∧ t.len = Config.bufSize ∧ t.err = .noFault :=
  ⟨_, exec_push_inside b hs (Nat.lt_of_succ_le hlen.le), hlen, hs⟩

/-- Settles O37: the two sides of the bound on `LEN`, and the example as the first side's case at reset. -/
theorem pushAppendsOneByte : Obligations.PushAppendsOneByte := by
  refine ⟨fun b => ?encoding, rfl, fun b s => whileRunning_faulted, fun b s => exec_push_full b,
    fun b s => exec_push_bytes b, fun b s => exec_push_lastByte b, ?fromReset⟩
  case encoding => simp [encode, toNat_joinFields]
  case fromReset =>
    have hlen : State.reset.len < Config.bufSize := lt_bufSize_of_lt (by decide)
    exact ⟨_, exec_push_inside 0xAA rfl hlen, byteAt_store_byte_same State.reset 0 0xAA, rfl⟩

/-! ### `SETLEN` (R83) -/

/-- Both outcomes of `SETLEN`; the truncation to `LEN_W` bits takes nothing from a length that fits. -/
theorem exec_setlen {s : State} (n : Half) (hs : s.err = .noFault) :
    exec (.setlen n) s = .next (if n.toNat > Config.bufSize then { s with err := .indexOutOfRange }
      else { s with len := n.toNat % 2 ^ Config.lenW }) := by
  by_cases hn : n.toNat > Config.bufSize
  · rw [if_pos hn]
    exact exec_setlen_outside hs hn
  · rw [if_neg hn, setlen_keeps_n n.toNat (Nat.not_lt.1 hn)]
    exact exec_setlen_inside hs (Nat.not_lt.1 hn)

/-- `CRC` after `SETLEN n` reads the first `n` bytes of the buffer, whatever the length was. -/
theorem exec_setlen_then_crc {s : State} {n : Half} (hs : s.err = .noFault) (hn : n.toNat ≤ Config.bufSize) :
    ∃ t u, exec (.setlen n) s = .next t ∧ exec .crc t = .next u ∧ u.crcOut = crc16 (bytesFrom s 0 n.toNat) := by
  refine ⟨_, _, exec_setlen_inside hs hn, exec_crc (s := setLen s n.toNat) ⟨hs, hn⟩, ?_⟩
  rw [setCrcOut_crcOut, currentFrame, setLen_len, bytesFrom_setLen]

/-- A length below the current one makes the first bytes of the frame current. -/
theorem exec_setlen_currentFrame {s : State} {n : Half} (hs : s.err = .noFault) (hn : n.toNat ≤ Config.bufSize)
    (hlen : n.toNat ≤ s.len) :
    ∃ t, exec (.setlen n) s = .next t ∧ t.len = n.toNat ∧ currentFrame t = (currentFrame s).take n.toNat :=
  ⟨_, exec_setlen_inside hs hn, rfl, currentFrame_setLen hlen⟩

/-- Settles O38: the two outcomes in one equation, and what a length inside the buffer makes current. -/
theorem setlenSetsTheLength : Obligations.SetlenSetsTheLength := by
  refine ⟨fun n => ?encoding, rfl, fun n s => whileRunning_faulted, fun n s => exec_setlen n,
    fun n => setlen_keeps_n n.toNat, fun s => (exec_clr_eq_setlen_zero s).symm, fun n s => exec_setlen_then_crc,
    fun s hs hframe => ?bodyOfTheExample⟩
  case encoding => simp [encode, toNat_joinFields]
  case bodyOfTheExample =>
    have hlen : s.len = 8 := by rw [← length_currentFrame, hframe]; rfl
    obtain ⟨t, ht, htlen, htframe⟩ :=
      exec_setlen_currentFrame (n := 6) hs (lt_bufSize_of_lt (by decide)).le (by rw [hlen]; decide)
    exact ⟨t, ht, htlen, by rw [htframe, hframe]; rfl⟩

/-! ### `WRB` (R84) -/

theorem exec_wrb_outside {s : State} {i : Half} (b : Byte) (hs : s.err = .noFault) (hi : i.toNat ≥ Config.bufSize) :
    exec (.wrb i b) s = .next (setErr s .indexOutOfRange) :=
  whileRunning_raise hs hi

theorem exec_wrb_bytes {s : State} {i : Half} (b : Byte) (hs : s.err = .noFault) (hi : i.toNat < Config.bufSize) :
    ∃ t, exec (.wrb i b) s = .next t ∧ t = { s with buf := t.buf } ∧ byteAt t i.toNat = b ∧
      ∀ j, j ≠ i.toNat → byteAt t j = byteAt s j :=
  ⟨_, exec_wrb_inside b hs hi, rfl, byteAt_store_byte_same s i.toNat b, fun _ => byteAt_store_byte_of_ne b⟩

/-- Settles O39: the two sides of the bound on the index, and the example as the inner side's case at index 5. -/
theorem wrbWritesOneByte : Obligations.WrbWritesOneByte := by
  refine ⟨fun i b => ?encoding, rfl, fun i b s => whileRunning_faulted, fun i b s => exec_wrb_outside b,
    fun i b s => exec_wrb_bytes b, fun s hs _ => ?atIndexFive⟩
  case encoding => simp [encode, toNat_joinFields]
  case atIndexFive =>
    obtain ⟨t, ht, -, hbyte, hothers⟩ := exec_wrb_bytes (i := 5) 0x04 hs (lt_bufSize_of_lt (by decide))
    exact ⟨t, ht, hbyte, hothers⟩

/-! ### `RDB` (R85) -/

@[simp] theorem hi8_zext16 (b : Byte) : hi8 (zext16 b) = 0 := by
  ext i hi
  simp [hi8, zext16]

theorem exec_rdb_outside {s : State} {i : Half} (hs : s.err = .noFault) (hi : i.toNat ≥ Config.bufSize) :
    exec (.rdb i) s = .next (setErr s .indexOutOfRange) :=
  whileRunning_raise hs hi

theorem exec_rdb_dout {s : State} {i : Half} (hs : s.err = .noFault) (hi : i.toNat < Config.bufSize) :
    ∃ t, exec (.rdb i) s = .next t ∧ t = { s with dout := t.dout } ∧ hi8 t.dout = 0 ∧
      lo8 t.dout = byteAt s i.toNat :=
  ⟨_, exec_rdb_inside hs hi, rfl, hi8_zext16 _, lo8_zext16 _⟩

/-- Settles O40: the two sides of the bound on the index, and the example from byte 2 of the frame. -/
theorem rdbReadsOneByte : Obligations.RdbReadsOneByte := by
  refine ⟨fun i => ?encoding, rfl, fun i s => whileRunning_faulted, fun i s => exec_rdb_outside,
    fun i s => exec_rdb_dout, fun s hs hframe => ?byteCount⟩
  case encoding => simp [encode, toNat_joinFields]
  case byteCount =>
    have hbyte : byteAt s 2 = 0x14 := byteAt_of_getElem?_currentFrame (by rw [hframe]; rfl)
    have hread := exec_rdb_inside (i := 2) hs (lt_bufSize_of_lt (by decide))
    rw [show (2 : Half).toNat = 2 from rfl, hbyte] at hread
    exact hread

/-! ### `RDW` (R86) -/

theorem exec_rdw_outside {s : State} {i : Half} (hs : s.err = .noFault) (hi : i.toNat + 1 ≥ Config.bufSize) :
    exec (.rdw i) s = .next (setErr s .indexOutOfRange) :=
  whileRunning_raise hs hi

theorem exec_rdw_dout {s : State} {i : Half} (hs : s.err = .noFault) (hi : i.toNat + 1 < Config.bufSize) :
    ∃ t, exec (.rdw i) s = .next t ∧ t = { s with dout := t.dout } ∧ hi8 t.dout = byteAt s i.toNat ∧
      lo8 t.dout = byteAt s (i.toNat + 1) :=
  ⟨_, exec_rdw_inside hs hi, rfl, hi8_be16 _ _, lo8_be16 _ _⟩

/-- With its two bytes swapped, what `RDW` reads at the CRC field is the CRC of the bytes before it. -/
theorem exec_rdw_crcField_swapped {s : State} (hs : Running s) (hv : validate (currentFrame s) = true) :
    ∃ t, exec (.rdw (BitVec.ofNat 16 (s.len - 2))) s = .next t ∧
      be16 (lo8 t.dout) (hi8 t.dout) = crc16 ((currentFrame s).take (s.len - 2)) := by
  obtain ⟨t, ht, hdout⟩ := exec_rdw_crcField hs hv
  exact ⟨t, ht, by rw [hdout, lo8_be16, hi8_be16, be16_hi8_lo8]⟩

/-- Settles O41: the two sides of the bound on `i + 1`, with 65535 on the outer side for every `BUF_SIZE`, and the example
from bytes 3 and 4 of the frame. -/
theorem rdwReadsTwoBytesBigEndian : Obligations.RdwReadsTwoBytesBigEndian := by
  refine ⟨fun i => ?encoding, rfl, fun i s => whileRunning_faulted, fun i s => exec_rdw_outside,
    fun s hs => exec_rdw_outside hs ?lastIndex, fun i s => exec_rdw_dout, fun s => exec_rdw_crcField_swapped,
    fun s hs hframe => ?firstDataWord⟩
  case encoding => simp [encode, toNat_joinFields]
  case lastIndex => exact Config.bufSize_le.trans (Nat.le_succ 65535)
  case firstDataWord =>
    have hhigh : byteAt s 3 = 0x08 := byteAt_of_getElem?_currentFrame (by rw [hframe]; rfl)
    have hlow : byteAt s 4 = 0xFC := byteAt_of_getElem?_currentFrame (by rw [hframe]; rfl)
    have hread := exec_rdw_inside (i := 3) hs (lt_bufSize_of_lt (by decide))
    rw [show (3 : Half).toNat = 3 from rfl, hhigh, hlow] at hread
    exact hread

/-! ### `NOP` (R80) -/

/-- A word with a command's opcode that is not the command its own fields make has a reserved field that is not zero
(R57). -/
theorem decode_of_ne_encode {w : CommandWord} {row : DecodeRow} (hrow : row ∈ decodeRows) (hop : opField w = row.op)
    (hw : w ≠ encode (row.instrOf w)) : decode w = .illegal .reservedNotZero := by
  rw [decode_of_row hrow hop, accept, if_neg fun hzero => hw (encode_instrOf hrow hop hzero).symm]

/-- Settles O35: `NOP` has no guard and no effect, and without an operand it has one word. -/
theorem nopChangesNothing : Obligations.NopChangesNothing :=
  ⟨rfl, fun _ => rfl, fun _ hop hw => decode_of_ne_encode (List.mem_cons_self ..) hop hw⟩

/-! ### `CLR` (R81) -/

theorem exec_clr_empty {s : State} (hlen : s.len = 0) : exec .clr s = .next s := by
  by_cases hs : s.err = .noFault
  · rw [exec_clr hs, ← hlen]
    rfl
  · exact whileRunning_faulted hs

/-- Settles O36: a running block loses its length alone, and nothing else ever changes. -/
theorem clrEmptiesTheFrame : Obligations.ClrEmptiesTheFrame :=
  ⟨rfl, fun _ => whileRunning_faulted, fun _ => exec_clr, fun _ => exec_clr_empty, fun _ _ => exec_clr_byteAt⟩

end Sys2Proof.Machine
end

section

namespace Sys2Proof.Machine

/-! ### A frame at the start of the buffer -/

/-- The state with these bytes at the start of the buffer, as the current frame; `placeFrame_eq_withFrame` says that the
build commands leave it. -/
def withFrame (s : State) (bs : List Byte) : State := setLen (setBuf s (Memory.storeAll s.buf 0 bs)) bs.length

@[simp] theorem currentFrame_withFrame (s : State) (bs : List Byte) : currentFrame (withFrame s bs) = bs :=
  currentFrame_placed s bs

@[simp] theorem withFrame_len (s : State) (bs : List Byte) : (withFrame s bs).len = bs.length := rfl

@[simp] theorem withFrame_err (s : State) (bs : List Byte) : (withFrame s bs).err = s.err := rfl

theorem byteAt_withFrame (s : State) (bs : List Byte) (j : Nat) :
    byteAt (withFrame s bs) j = (bs[j]?).getD (byteAt s j) := by
  rw [withFrame, byteAt_setLen, byteAt_setBuf_storeAll, Nat.zero_add, Nat.sub_zero]
  by_cases h : j < bs.length
  · rw [if_pos ⟨Nat.zero_le j, h⟩]
  · rw [if_neg fun hin => h hin.2, List.getElem?_eq_none (Nat.not_lt.1 h), Option.getD_none]

theorem byteAt_withFrame_of_le {s : State} {bs : List Byte} {j : Nat} (h : bs.length ≤ j) :
    byteAt (withFrame s bs) j = byteAt s j := by
  rw [byteAt_withFrame, List.getElem?_eq_none h, Option.getD_none]

/-! ### `validate` (R92) -/

theorem drop_eq_pair_iff {f : List Byte} {n : Nat} {x y : Byte} (h : f.length = n + 2) :
    f.drop n = [x, y] ↔ f[n]? = some x ∧ f[n + 1]? = some y := by
  obtain ⟨a, b, htail⟩ := List.length_eq_two.1 (show (f.drop n).length = 2 by rw [List.length_drop]; omega)
  have hfirst : f[n]? = some a := by rw [← Nat.add_zero n, ← List.getElem?_drop, htail]; rfl
  have hsecond : f[n + 1]? = some b := by rw [← List.getElem?_drop, htail]; rfl
  simp [htail, hfirst, hsecond]

theorem validate_of_length_le_two {f : List Byte} (h : f.length ≤ 2) : validate f = false :=
  Bool.eq_false_iff.2 fun hv => Nat.not_lt.2 h (validate_iff.1 hv).1

/-- Settles O44: a frame longer than 2 bytes ends in two bytes, and they are compared with the CRC field. -/
theorem validateComparesTheCrcFieldAlone : Obligations.ValidateComparesTheCrcFieldAlone := by
  refine fun f => ⟨validate_of_length_le_two, fun h => ?_⟩
  have hlen : f.length = f.length - 2 + 2 := by omega
  have hlast : f.length - 1 = f.length - 2 + 1 := by omega
  rw [validate_iff, littleEndian, drop_eq_pair_iff hlen, hlast]
  exact and_iff_right h

/-! ### `VALIDATE` (R93) -/

theorem exec_validate_of_eq {s : State} {b : Bool} (hs : Running s) (hv : validate (currentFrame s) = b) :
    exec .validate s = .next (setOk s b) := by
  rw [exec_validate hs, hv]

theorem len_of_currentFrame_eq {s : State} {f : List Byte} (h : currentFrame s = f) : s.len = f.length := by
  rw [← h, length_currentFrame]

theorem running_of_len_le {s : State} (hs : s.err = .noFault) (hlen : s.len ≤ 25) : Running s :=
  ⟨hs, hlen.trans Config.bufSize_ge⟩

theorem validate_currentFrame_of_len_le_two {s : State} (hlen : s.len ≤ 2) : validate (currentFrame s) = false :=
  validate_of_length_le_two (by rwa [length_currentFrame])

/-- Two bytes or fewer are never a valid frame. -/
theorem exec_validate_short {s : State} (hs : s.err = .noFault) (hlen : s.len ≤ 2) :
    exec .validate s = .next (setOk s false) :=
  exec_validate_of_eq (running_of_len_le hs (by omega)) (validate_currentFrame_of_len_le_two hlen)

/-- All that `VALIDATE` can answer next: a stopped block stays as it is, a running one takes the verdict. -/
theorem exec_validate_next {s t : State} (h : exec .validate s = .next t) :
    (s.err ≠ .noFault ∧ t = s) ∨ (Running s ∧ t = setOk s (validate (currentFrame s))) := by
  obtain hstopped | ⟨herr, hrun⟩ := whileRunning_next.1 h
  · exact .inl hstopped
  · obtain ⟨hle, heq⟩ := loadFrame_next.1 hrun
    exact .inr ⟨⟨herr, hle⟩, (Host.Outcome.next.inj heq).symm⟩

/-- The verdict does not change the frame it is on, so a second `VALIDATE` gives it again. -/
theorem exec_validate_idempotent {s t : State} (h : exec .validate s = .next t) : exec .validate t = .next t := by
  obtain ⟨-, rfl⟩ | ⟨hs, rfl⟩ := exec_validate_next h
  · exact h
  · exact exec_validate_of_eq (s := setOk s _) hs (by rw [currentFrame_setOk])

/-- A byte written in the current frame is replaced there, and one written beyond it leaves the frame as it is. -/
theorem currentFrame_store_byte (s : State) (i : Nat) (b : Byte) :
    currentFrame (setBuf s (Memory.storeAll s.buf i [b])) = (currentFrame s).set i b := by
  apply List.ext_getElem?
  intro k
  rw [getElem?_currentFrame, List.getElem?_set, getElem?_currentFrame, byteAt_store_byte, setBuf_len,
    length_currentFrame]
  by_cases hk : k = i
  · subst hk
    simp
  · simp [hk, Ne.symm hk]

/-- Settles O45: each case of the frame is the command's one effect with that frame's verdict. -/
theorem validateReportsTheVerdictInOk : Obligations.ValidateReportsTheVerdictInOk := by
  refine ⟨rfl, fun s => whileRunning_faulted, fun s => exec_validate, fun s => exec_validate_short, ?threeBytes,
    fun s t => exec_validate_idempotent, fun s hs hframe => ?readFrame⟩
  case threeBytes =>
    have hs : Running (withFrame State.reset [0xAA, 0x3F, 0x3F]) := running_of_len_le rfl (by decide)
    have hv : validate (currentFrame (withFrame State.reset [0xAA, 0x3F, 0x3F])) = true := by
      rw [currentFrame_withFrame]
      decide
    exact ⟨_, _, hs, rfl, exec_validate_of_eq hs hv, rfl⟩
  case readFrame =>
    have hlen : s.len = 8 := len_of_currentFrame_eq hframe
    have hrun : Running s := running_of_len_le hs (by omega)
    refine ⟨exec_validate_of_eq hrun (by rw [hframe]; decide), _, _,
      exec_wrb_inside 0x0B hs (lt_bufSize_of_lt (by decide)), exec_validate_of_eq (b := false) hrun ?_, rfl⟩
    rw [currentFrame_store_byte, hframe]
    decide

/-! ### `APPEND` (R91) -/

theorem exec_append_full {s : State} (hs : s.err = .noFault) (hlen : s.len + 2 > Config.bufSize) :
    exec .append s = .next (setErr s .bufferOverflow) :=
  whileRunning_raise hs hlen

/-- The buffer after two bytes are written. -/
theorem byteAt_store_pair (s : State) (i : Nat) (x y : Byte) (j : Nat) :
    byteAt (setBuf s (Memory.storeAll s.buf i [x, y])) j =
      if j = i then x else if j = i + 1 then y else byteAt s j := by
  rw [byteAt_setBuf_storeAll, List.length_cons, List.length_singleton]
  by_cases hx : j = i
  · subst hx
    simp
  · by_cases hy : j = i + 1
    · subst hy
      simp
    · rw [if_neg (by omega), if_neg hx, if_neg hy]

theorem exec_append_bytes {s : State} (hs : s.err = .noFault) (hlen : s.len + 2 ≤ Config.bufSize) :
    ∃ t, exec .append s = .next t ∧ t = { s with buf := t.buf, len := s.len + 2 } ∧
      byteAt t s.len = lo8 (crc16 (currentFrame s)) ∧ byteAt t (s.len + 1) = hi8 (crc16 (currentFrame s)) ∧
      (∀ j, j ≠ s.len → j ≠ s.len + 1 → byteAt t j = byteAt s j) ∧ currentFrame t = appendCrc (currentFrame s) := by
  refine ⟨_, exec_append_inside hs hlen, rfl, ?lowByte, ?highByte, fun j hlo hhi => ?others,
    currentFrame_append s (littleEndian (crc16 (currentFrame s)))⟩
  all_goals rw [byteAt_setLen, littleEndian, byteAt_store_pair]
  case lowByte => rw [if_pos rfl]
  case highByte => rw [if_neg (Nat.succ_ne_self _), if_pos rfl]
  case others => rw [if_neg hlo, if_neg hhi]

/-- `APPEND` leaves a running block whose frame is the old one with its CRC field, at the indices it had after it. -/
theorem exec_append_crcField {s : State} (hs : s.err = .noFault) (hlen : s.len + 2 ≤ Config.bufSize) :
    ∃ t, exec .append s = .next t ∧ t.err = .noFault ∧ t.len = s.len + 2 ∧
      currentFrame t = appendCrc (currentFrame s) ∧ byteAt t s.len = lo8 (crc16 (currentFrame s)) ∧
      byteAt t (s.len + 1) = hi8 (crc16 (currentFrame s)) := by
  obtain ⟨t, ht, hstate, hlo, hhi, -, hframe⟩ := exec_append_bytes hs hlen
  exact ⟨t, ht, by rw [hstate]; exact hs, by rw [hstate], hframe, hlo, hhi⟩

/-- The empty frame gets the CRC's seed as its field, and two bytes do not validate. -/
theorem exec_append_empty {s : State} (hs : s.err = .noFault) (hlen : s.len = 0) :
    ∃ t u, exec .append s = .next t ∧ byteAt t 0 = 0xFF ∧ byteAt t 1 = 0xFF ∧ t.len = 2 ∧
      exec .validate t = .next u ∧ u.ok = false := by
  have hempty : currentFrame s = [] := by rw [currentFrame, hlen]; rfl
  have hfits : s.len + 2 ≤ Config.bufSize := (lt_bufSize_of_lt (by omega)).le
  obtain ⟨t, ht, hterr, htlen, -, hlo, hhi⟩ := exec_append_crcField hs hfits
  rw [hlen, hempty] at hlo hhi
  rw [hlen] at htlen
  exact ⟨t, _, ht, hlo, hhi, htlen, exec_validate_short hterr htlen.le, rfl⟩

/-- The frame with its CRC field has CRC 0, so a second `APPEND` adds two zero bytes. -/
theorem exec_append_twice {s : State} (hs : s.err = .noFault) (hlen : s.len + 4 ≤ Config.bufSize) :
    ∃ t u, exec .append s = .next t ∧ exec .append t = .next u ∧ byteAt u (s.len + 2) = 0x00 ∧
      byteAt u (s.len + 3) = 0x00 := by
  obtain ⟨t, ht, hterr, htlen, htframe, -, -⟩ := exec_append_crcField hs (by omega)
  obtain ⟨u, hu, -, -, -, hlo, hhi⟩ := exec_append_crcField hterr (by omega)
  rw [htlen, htframe, crc16_appendCrc] at hlo hhi
  exact ⟨t, u, ht, hu, hlo, hhi⟩

/-- Settles O43: the two sides of the bound on `LEN + 2`, and each corner case as its frame's CRC. -/
theorem appendAddsTheCrcField : Obligations.AppendAddsTheCrcField := by
  refine ⟨rfl, fun s => whileRunning_faulted, fun s => exec_append_full, fun s => exec_append_bytes,
    fun s => exec_append_empty, fun s hs hlen => ?fillsTheBuffer, fun s => exec_append_twice,
    fun s hs hframe => ?exampleFrame⟩
  case fillsTheBuffer =>
    obtain ⟨t, ht, hterr, htlen, -⟩ := exec_append_crcField hs hlen.le
    exact ⟨t, ht, htlen.trans hlen, hterr⟩
  case exampleFrame =>
    have hlen : s.len = 6 := len_of_currentFrame_eq hframe
    have hfits : s.len + 2 ≤ Config.bufSize := (lt_bufSize_of_lt (by omega)).le
    obtain ⟨t, ht, -, htlen, htframe, -⟩ := exec_append_crcField hs hfits
    refine ⟨t, ht, ?_, by rw [htlen, hlen]⟩
    rw [htframe, hframe]
    decide

/-! ### `STRIP` (R94) -/

theorem exec_strip_invalid {s : State} (hs : Running s) (hv : validate (currentFrame s) = false) :
    exec .strip s = .next (setOk s false) :=
  (exec_strip hs).trans (if_neg (Bool.eq_false_iff.1 hv))

theorem running_stripped {s : State} (hs : Running s) : Running (setLen (setOk s true) (s.len - 2)) :=
  ⟨hs.1, (Nat.sub_le s.len 2).trans hs.2⟩

theorem currentFrame_stripped (s : State) :
    currentFrame (setLen (setOk s true) (s.len - 2)) = (currentFrame s).take (s.len - 2) := by
  rw [currentFrame_setLen (s := setOk s true) (Nat.sub_le s.len 2), currentFrame_setOk]

/-- The CRC of a valid frame's body is the number its last two bytes hold, low byte first. -/
theorem crc16_body_of_validate {s : State} (hv : validate (currentFrame s) = true) :
    crc16 ((currentFrame s).take (s.len - 2)) = be16 (byteAt s (s.len - 2 + 1)) (byteAt s (s.len - 2)) := by
  obtain ⟨hlo, hhi⟩ := byteAt_crcField hv
  rw [hlo, hhi, be16_hi8_lo8]

/-- `CRC` after `STRIP` gives the value of the field stripped, which still stands behind the frame. -/
theorem exec_strip_then_crc {s : State} (hs : Running s) (hv : validate (currentFrame s) = true) :
    ∃ t u, exec .strip s = .next t ∧ exec .crc t = .next u ∧
      u.crcOut = be16 (byteAt s (s.len - 1)) (byteAt s (s.len - 2)) ∧
      byteAt t t.len = byteAt s (s.len - 2) ∧ byteAt t (t.len + 1) = byteAt s (s.len - 1) := by
  have hlast : s.len - 1 = s.len - 2 + 1 := by have := two_lt_len_of_validate hv; omega
  refine ⟨_, _, exec_strip_valid hs hv, exec_crc (running_stripped hs), ?_, rfl, by rw [hlast]; rfl⟩
  rw [setCrcOut_crcOut, currentFrame_stripped, hlast, crc16_body_of_validate hv]

/-- `STRIP` takes nothing but length from a valid frame, so `SETLEN` of the old length makes all of it current again. -/
theorem exec_strip_then_setlen {s : State} (hs : Running s) (hv : validate (currentFrame s) = true) :
    ∃ t u, exec .strip s = .next t ∧ exec (.setlen (BitVec.ofNat 16 s.len)) t = .next u ∧
      currentFrame u = currentFrame s := by
  have hlen : (BitVec.ofNat 16 s.len).toNat = s.len := toNat_ofNat_of_le_bufSize hs.2
  refine ⟨_, _, exec_strip_valid hs hv, exec_setlen_inside (running_stripped hs).1 (hlen.trans_le hs.2), ?_⟩
  rw [hlen]
  exact currentFrame_setOk s true

/-- Settles O46: the two verdicts, what `CRC` and `SETLEN` find after a valid one, and the response of V10. -/
theorem stripShortensAValidFrame : Obligations.StripShortensAValidFrame := by
  refine ⟨rfl, fun s => whileRunning_faulted, fun s hs hv => ⟨exec_strip_valid hs hv, ?someByteStays⟩,
    fun s => exec_strip_invalid, fun s hs hlen => ?short, fun s => exec_strip_then_crc,
    fun s => exec_strip_then_setlen, fun s hs hframe => ?response⟩
  case someByteStays => exact Nat.sub_pos_of_lt (two_lt_len_of_validate hv)
  case short =>
    exact exec_strip_invalid (running_of_len_le hs (by omega)) (validate_currentFrame_of_len_le_two hlen)
  case response =>
    have hlen : s.len = 25 := len_of_currentFrame_eq hframe
    have hv : validate (currentFrame s) = true := by rw [hframe]; decide +kernel
    rw [exec_strip_valid (running_of_len_le hs hlen.le) hv, hlen]
    rfl

/-! ### Command frames (R45, R95) -/

theorem toNat_hi8_lo8 (w : Half) : (hi8 w).toNat * 256 + (lo8 w).toNat = w.toNat := by
  simp only [hi8, lo8, BitVec.extractLsb'_toNat, Nat.shiftRight_eq_div_pow]
  omega

theorem buildFrame_eq {a f : Byte} {r v c : Half} (hc : c = crc16 [a, f, hi8 r, lo8 r, hi8 v, lo8 v]) :
    buildFrame a f r v = [a, f, hi8 r, lo8 r, hi8 v, lo8 v, lo8 c, hi8 c] := by
  subst hc
  rfl

/-- Settles O47: the eight bytes in order, and each 16-bit field as the number its two bytes make. -/
theorem commandFramesHaveTheStatedLayout : Obligations.CommandFramesHaveTheStatedLayout := by
  intro a f r v c hc
  refine ⟨buildFrame_eq hc, rfl, ?asNumber⟩
  rw [buildFrame_eq hc, ← toNat_hi8_lo8 r, ← toNat_hi8_lo8 v]
  simp only [List.foldl_cons, List.foldl_nil]
  ring

/-- Only the function code and the CRC field depend on the function code. -/
theorem getElem?_buildFrame_congr (a f g : Byte) (r v : Half) :
    ∀ j, j ≠ 1 → j ≠ 6 → j ≠ 7 → (buildFrame a f r v)[j]? = (buildFrame a g r v)[j]?
  | 0, _, _, _ | 2, _, _, _ | 3, _, _, _ | 4, _, _, _ | 5, _, _, _ | _ + 8, _, _, _ => rfl
  | 1, h, _, _ | 6, _, h, _ | 7, _, _, h => absurd rfl h

theorem buildFrame_inj {a f g : Byte} {r v : Half} : buildFrame a f r v = buildFrame a g r v ↔ f = g :=
  ⟨fun h => Option.some.inj (congrArg (·[1]?) h), fun h => h ▸ rfl⟩

/-! ### `BLDRD` and `BLDWR` (R96, R97) -/

theorem placeFrame_eq_withFrame (s : State) (a f : Byte) (r v : Half) :
    placeFrame s (buildFrame a f r v) = .next (withFrame s (buildFrame a f r v)) :=
  placeFrame_inside (buildFrame_fits a f r v)

theorem exec_bldrd {s : State} (a : Byte) (r c : Half) (hs : s.err = .noFault) :
    exec (.bldrd a r c) s = .next (withFrame s (buildFrame a fcRead r c)) :=
  (whileRunning_noFault hs).trans (placeFrame_eq_withFrame s a fcRead r c)

theorem exec_bldwr {s : State} (a : Byte) (r v : Half) (hs : s.err = .noFault) :
    exec (.bldwr a r v) s = .next (withFrame s (buildFrame a Config.fcWrite r v)) :=
  (whileRunning_noFault hs).trans (placeFrame_eq_withFrame s a Config.fcWrite r v)

/-- A built frame reaches up to byte 7 for all operands. -/
theorem byteAt_withFrame_buildFrame {s : State} {a f : Byte} {r v : Half} {j : Nat} (h : 8 ≤ j) :
    byteAt (withFrame s (buildFrame a f r v)) j = byteAt s j :=
  byteAt_withFrame_of_le h

/-- Settles O48: the state with the built frame, whose length is 8 for all operands. -/
theorem bldrdBuildsAReadFrame : Obligations.BldrdBuildsAReadFrame := by
  refine ⟨fun a r c => toNat_joinFields 0x31 a r c, rfl,
    fun w hop => decode_of_row (row := ⟨0x31, .F, .bldrd⟩) (by simp [decodeRows]) hop,
    fun a r c s => whileRunning_faulted,
    fun a r c s hs => ⟨_, exec_bldrd a r c hs, rfl, currentFrame_withFrame s _, fun _ => byteAt_withFrame_buildFrame⟩,
    fun s hs => ⟨_, exec_bldrd _ _ _ hs, ?exampleFrame, rfl⟩⟩
  case exampleFrame =>
    rw [currentFrame_withFrame]
    decide

/-- The two build commands from one state: their frames differ in the function code and the CRC field. -/
theorem exec_bldwr_vs_bldrd {s : State} (a : Byte) (r v : Half) (hs : s.err = .noFault) :
    ∃ t u, exec (.bldwr a r v) s = .next t ∧ exec (.bldrd a r v) s = .next u ∧ t = { u with buf := t.buf } ∧
      (∀ j, j ≠ 1 → j ≠ 6 → j ≠ 7 → byteAt t j = byteAt u j) ∧ byteAt t 1 = Config.fcWrite ∧ byteAt u 1 = fcRead ∧
      (currentFrame t = currentFrame u ↔ Config.fcWrite = fcRead) := by
  refine ⟨_, _, exec_bldwr a r v hs, exec_bldrd a r v hs, rfl, fun j h1 h6 h7 => ?sameBytes, byteAt_withFrame s _ 1,
    byteAt_withFrame s _ 1, ?sameFrame⟩
  case sameBytes => rw [byteAt_withFrame, byteAt_withFrame, getElem?_buildFrame_congr _ _ fcRead _ _ j h1 h6 h7]
  case sameFrame => rw [currentFrame_withFrame, currentFrame_withFrame, buildFrame_inj]

/-- A write frame of the example's operands is the example's exactly when its function code is 0x06. -/
theorem buildFrame_eq_example_iff (f : Byte) :
    f = 0x06 ↔ buildFrame 0x01 f 0x0002 0x0005 = [0x01, 0x06, 0x00, 0x02, 0x00, 0x05, 0xE8, 0x09] := by
  have hexample : buildFrame 0x01 0x06 0x0002 0x0005 = [0x01, 0x06, 0x00, 0x02, 0x00, 0x05, 0xE8, 0x09] := by decide
  rw [← hexample, buildFrame_inj]

/-- Settles O49: as for `BLDRD`, with `FC_WRITE` left open, and the two commands compared. -/
theorem bldwrBuildsAWriteFrame : Obligations.BldwrBuildsAWriteFrame := by
  refine ⟨fun a r v => toNat_joinFields 0x32 a r v, rfl,
    fun w hop => decode_of_row (row := ⟨0x32, .F, .bldwr⟩) (by simp [decodeRows]) hop,
    fun a r v s => whileRunning_faulted,
    fun a r v s hs => ⟨_, exec_bldwr a r v hs, rfl, currentFrame_withFrame s _, fun _ => byteAt_withFrame_buildFrame⟩,
    fun a r v s => exec_bldwr_vs_bldrd a r v, fun s hs => ⟨_, exec_bldwr _ _ _ hs, rfl, ?exampleFrame⟩⟩
  case exampleFrame =>
    rw [currentFrame_withFrame]
    exact buildFrame_eq_example_iff Config.fcWrite

end Sys2Proof.Machine
end

section

namespace Sys2Proof.Machine

/-! ### `clamp_addr` (R100) -/

theorem clampAddr_of_mem {a : Byte} (h : 0x01 ≤ a ∧ a ≤ 0xF8) : clampAddr a = a := if_pos h

theorem clampAddr_of_not_mem {a : Byte} (h : ¬(0x01 ≤ a ∧ a ≤ 0xF8)) : clampAddr a = 0xF8 := if_neg h

/-- The replacement is itself a legal address, so an illegal one is never replaced by itself. -/
theorem clampAddr_eq_self_iff {a : Byte} : clampAddr a = a ↔ 0x01 ≤ a ∧ a ≤ 0xF8 := by
  refine ⟨fun h => ?_, clampAddr_of_mem⟩
  by_contra hout
  have ha : a = 0xF8 := h.symm.trans (clampAddr_of_not_mem hout)
  exact hout (by rw [ha]; decide)

theorem clampAddr_ne_self_iff (a : Byte) : clampAddr a ≠ a ↔ a = 0x00 ∨ (0xF9 ≤ a ∧ a ≤ 0xFF) := by
  rw [Ne, clampAddr_eq_self_iff]
  bv_omega

/-- The values replaced, listed. -/
theorem filter_clampAddr_ne_self :
    ((List.range 256).filter fun n => clampAddr (BitVec.ofNat 8 n) != BitVec.ofNat 8 n) =
      0x00 :: List.range' 0xF9 7 := by
  decide

/-- Settles O53: the definition's two branches, and the list of the values replaced. -/
theorem clampReplacesTheIllegalAddresses : Obligations.ClampReplacesTheIllegalAddresses :=
  ⟨fun _ => rfl, clampAddr_ne_self_iff, congrArg List.length filter_clampAddr_ne_self,
    clampAddr_of_not_mem (by decide), clampAddr_of_not_mem (by decide), clampAddr_of_mem (by decide),
    clampAddr_of_mem (by decide)⟩

/-! ### `INIT` (R101) -/

theorem exec_init {s : State} (a : Byte) (hs : s.err = .noFault) :
    exec (.init a) s = .next (setDevAddr s (clampAddr a)) :=
  whileRunning_noFault hs

/-- Settles O54: `INIT`'s one effect, and the example as that effect twice from reset. -/
theorem initSetsTheDeviceAddress : Obligations.InitSetsTheDeviceAddress := by
  refine ⟨fun a => ?encoding, rfl, fun a s => whileRunning_faulted, fun a s => exec_init a, ?fromReset⟩
  case encoding => simp [encode, toNat_joinFields]
  case fromReset =>
    have hfirst : clampAddr 0x01 = 0x01 := clampAddr_of_mem (by decide)
    have hthen : clampAddr 0xF9 = 0xF8 := clampAddr_of_not_mem (by decide)
    exact ⟨_, _, exec_init 0x01 rfl, hfirst, exec_init (s := setDevAddr State.reset _) 0xF9 rfl, hthen⟩

end Sys2Proof.Machine
end

section

namespace Sys2Proof.Machine

/-! ### A command while `ERR` is 0: its own fault, or its effect (R107, R108) -/

/-- A command that tests a bound first only enters its fault, where it has one. -/
theorem whileRunning_raise_of_fault {s : State} {e : ErrCode} {outside : Prop} [Decidable outside] {k : Result}
    (hs : s.err = .noFault) (hf : (if outside then e else .noFault) ≠ .noFault) :
    whileRunning s (if outside then raise e s else k) = .next (setErr s (if outside then e else .noFault)) := by
  by_cases hout : outside
  · rw [whileRunning_raise hs hout, if_pos hout]
  · exact absurd (if_neg hout) hf

/-- A command whose own condition holds enters its fault: `ERR` alone changes. -/
theorem exec_of_ownFault {i : Instr} {s : State} (hs : s.err = .noFault) (hf : Statements.ownFault i s ≠ .noFault) :
    exec i s = .next (setErr s (Statements.ownFault i s)) := by
  cases i with
  | push | append | setlen | wrb | rdb | rdw => exact whileRunning_raise_of_fault hs hf
  | nop | clr | crc | validate | strip | init | bldrd | bldwr => exact absurd rfl hf

/-- The bound a command tests holds where the command has no fault. -/
theorem not_outside_of_no_fault {e : ErrCode} {outside : Prop} [Decidable outside]
    (hf : (if outside then e else .noFault) = .noFault) (he : e ≠ .noFault := by decide) : ¬outside :=
  fun hout => he (ite_eq_right_iff.1 hf hout)

/-- `PUSH` at a length the buffer cannot have, which no run reaches (R25). -/
theorem exec_push_beyond {s : State} (b : Byte) (hs : s.err = .noFault) (hlen : Config.bufSize < s.len) :
    exec (.push b) s = .fault (.outsideBuffer Config.bufSize) :=
  calc exec (.push b) s
    _ = storeBytes s s.len [b] fun t => .next (setLen t (s.len + 1)) :=
      (whileRunning_noFault hs).trans (if_neg hlen.ne')
    _ = .fault (.outsideBuffer Config.bufSize) := if_neg (Nat.not_le.2 (Nat.lt_succ_of_lt hlen))

/-- What a command that reads the frame answers, at a length the buffer can have and at one it cannot. -/
theorem whileRunning_loadFrame {s : State} {k : List Byte → Result} (hs : s.err = .noFault)
    (hk : ∃ t, k (currentFrame s) = .next t ∧ t.err = .noFault) :
    (∃ t, whileRunning s (loadFrame s k) = .next t ∧ t.err = .noFault) ∨
      (Config.bufSize < s.len ∧ ∃ f, whileRunning s (loadFrame s k) = .fault f) := by
  rw [whileRunning_noFault hs]
  by_cases hlen : s.len ≤ Config.bufSize
  · exact .inl (by rwa [loadFrame_inside hlen])
  · exact .inr ⟨Nat.not_le.1 hlen, _, if_neg hlen⟩

/-- A command whose own condition does not hold completes with `ERR` still 0; only where `LEN` is beyond the buffer does
the model stop it (log entry 7). -/
theorem exec_of_no_ownFault {i : Instr} {s : State} (hs : s.err = .noFault) (hf : Statements.ownFault i s = .noFault) :
    (∃ t, exec i s = .next t ∧ t.err = .noFault) ∨ (Config.bufSize < s.len ∧ ∃ f, exec i s = .fault f) := by
  cases i with
  | nop => exact .inl ⟨s, rfl, hs⟩
  | clr => exact .inl ⟨_, exec_clr hs, hs⟩
  | push b =>
    obtain hlen | hlen := Nat.lt_or_gt_of_ne (not_outside_of_no_fault hf)
    · exact .inl ⟨_, exec_push_inside b hs hlen, hs⟩
    · exact .inr ⟨hlen, _, exec_push_beyond b hs hlen⟩
  | setlen n => exact .inl ⟨_, exec_setlen_inside hs (Nat.not_lt.1 (not_outside_of_no_fault hf)), hs⟩
  | wrb k b => exact .inl ⟨_, exec_wrb_inside b hs (Nat.not_le.1 (not_outside_of_no_fault hf)), hs⟩
  | rdb k => exact .inl ⟨_, exec_rdb_inside hs (Nat.not_le.1 (not_outside_of_no_fault hf)), hs⟩
  | rdw k => exact .inl ⟨_, exec_rdw_inside hs (Nat.not_le.1 (not_outside_of_no_fault hf)), hs⟩
  | append => exact .inl ⟨_, exec_append_inside hs (Nat.not_lt.1 (not_outside_of_no_fault hf)), hs⟩
  | crc => exact whileRunning_loadFrame hs ⟨_, rfl, hs⟩
  | validate => exact whileRunning_loadFrame hs ⟨_, rfl, hs⟩
  | strip => exact whileRunning_loadFrame hs (by split <;> exact ⟨_, rfl, hs⟩)
  | init a => exact .inl ⟨_, exec_init a hs, hs⟩
  | bldrd a r c => exact .inl ⟨_, exec_bldrd a r c hs, hs⟩
  | bldwr a r v => exact .inl ⟨_, exec_bldwr a r v hs, hs⟩

/-- A running block completes every command, and `ERR` is then the command's own fault or still 0. -/
theorem exec_running (i : Instr) {s : State} (hs : Running s) :
    ∃ t, exec i s = .next t ∧ t.err = Statements.ownFault i s := by
  obtain ⟨herr, hlen⟩ := hs
  by_cases hf : Statements.ownFault i s = .noFault
  · obtain hnext | ⟨hbeyond, -⟩ := exec_of_no_ownFault herr hf
    · rwa [hf]
    · exact absurd hlen (Nat.not_le.2 hbeyond)
  · exact ⟨_, exec_of_ownFault herr hf, rfl⟩

/-- A command that leaves a code in `ERR` has entered its own fault, and did nothing else. -/
theorem eq_setErr_of_exec_fault {i : Instr} {s t : State} (hs : s.err = .noFault) (h : exec i s = .next t)
    (ht : t.err ≠ .noFault) : t = setErr s t.err := by
  by_cases hf : Statements.ownFault i s = .noFault
  · obtain ⟨u, hu, herr⟩ | ⟨-, f, hstop⟩ := exec_of_no_ownFault hs hf
    · cases hu.symm.trans h
      exact absurd herr ht
    · cases hstop.symm.trans h
  · cases (exec_of_ownFault hs hf).symm.trans h
    rfl

/-! ### A stopped block (R109) -/

theorem exec_stopped (i : Instr) {s : State} (hs : s.err ≠ .noFault) : exec i s = .next s := by
  cases i with
  | nop => rfl
  | clr | push | setlen | wrb | rdb | rdw | crc | append | validate | strip | init | bldrd | bldwr =>
    exact whileRunning_faulted hs

/-! ### The step, event by event (R111, R120) -/

/-- A legal word's step is its command, the event taken. -/
theorem step_command {s : State} {w : CommandWord} {i : Instr} {rest : List HostEvent}
    (hp : s.pending = .command w :: rest) (hw : decode w = .command i) : step s = exec i (setPending s rest) := by
  rw [step, takeEvent_cons hp]
  simp only [hw]

/-- A stopped block only takes the word from the host, whatever it decodes to. -/
theorem step_stopped {s : State} {w : CommandWord} {rest : List HostEvent} (hs : s.err ≠ .noFault)
    (hp : s.pending = .command w :: rest) : step s = .next (setPending s rest) := by
  cases hw : decode w with
  | command i => exact (step_command hp hw).trans (exec_stopped i hs)
  | illegal why =>
    rw [step, takeEvent_cons hp]
    simp only [hw]
    exact whileRunning_faulted hs

theorem step_reset {s : State} {rest : List HostEvent} (hp : s.pending = .reset :: rest) :
    step s = .next (assertReset (setPending s rest)) := by
  rw [step, takeEvent_cons hp]

theorem step_idle {s : State} (hp : s.pending = []) : step s = .next s := by
  rw [step, takeEvent_nil hp]

/-- A command's own condition is on the block, not on what the host has still to do. -/
@[simp] theorem ownFault_setPending (i : Instr) (s : State) (p : List HostEvent) :
    Statements.ownFault i (setPending s p) = Statements.ownFault i s := rfl

/-- Settles O9: the four stages in their order; the last two are the command run from the state with the event taken. -/
theorem wordsAreEvaluatedInTheStatedOrder : Obligations.WordsAreEvaluatedInTheStatedOrder := by
  refine fun s w rest hp => ⟨fun hs => step_stopped hs hp, fun hs why hw => step_illegal hw hs hp,
    fun hs i hw hf => ?ownFault, fun hs hlen i hw hf => ?executed⟩
  case ownFault => exact (step_command hp hw).trans (exec_of_ownFault (s := setPending s rest) hs hf)
  case executed =>
    obtain ⟨t, ht, herr⟩ := exec_running i (s := setPending s rest) ⟨hs, hlen⟩
    exact ⟨t, (step_command hp hw).trans ht, ht, herr.trans hf⟩

/-- Settles O10: every running command's `ERR` is its own fault's, and an illegal word's step sets `IllegalCommand`. -/
theorem faultsAreRaisedExactlyOnTheirConditions : Obligations.FaultsAreRaisedExactlyOnTheirConditions :=
  ⟨fun i _ => exec_running i, fun _ _ _ _ hs hp hw => ⟨_, step_illegal hw hs hp, rfl⟩⟩

/-- Settles O11: both ways into a fault leave the old state but for `ERR`, which `STATUS[3:1]` shows. -/
theorem faultEntryChangesOnlyTheErrorField : Obligations.FaultEntryChangesOnlyTheErrorField := by
  refine ⟨fun i s t hs h ht => ⟨eq_setErr_of_exec_fault hs h ht, extractLsb'_status_err t⟩,
    fun w why s t rest hs hp hw h => ?illegalWord⟩
  case illegalWord =>
    cases (step_illegal hw hs hp).symm.trans h
    exact ⟨rfl, extractLsb'_status_err _⟩

/-- Settles O12: the guard of every command and of fault entry, and a port read, which has none. -/
theorem stoppedBlockIgnoresEveryWord : Obligations.StoppedBlockIgnoresEveryWord :=
  ⟨fun _ _ _ => step_stopped, fun i _ => exec_stopped i, fun _ _ _ _ => step_readPort⟩

/-- The one event that changes a latched code is a reset. -/
theorem step_keeps_fault {s t : State} (hs : s.err ≠ .noFault) (hreset : ∀ rest, s.pending ≠ .reset :: rest)
    (h : step s = .next t) : t.err = s.err := by
  match hp : s.pending with
  | [] =>
    cases (step_idle hp).symm.trans h
    rfl
  | .command w :: rest =>
    cases (step_stopped hs hp).symm.trans h
    rfl
  | .reset :: rest => exact absurd hp (hreset rest)
  | .readPort n :: rest =>
    cases (step_readPort hp).symm.trans h
    rfl

/-- Settles O13: a stopped block's step by the host's event, and reset by the table of R22. -/
theorem onlyResetClearsTheErrorField : Obligations.OnlyResetClearsTheErrorField := by
  refine ⟨fun s t => step_keeps_fault, fun s rest hp => ⟨_, step_reset hp, ?registers⟩⟩
  case registers => exact ⟨rfl, rfl, rfl, rfl, rfl, rfl, byteAt_assertReset _⟩

end Sys2Proof.Machine
end

section

namespace Sys2Proof.Machine

/-! ### Reset, whatever the state before it (R120) -/

/-- `STATUS` shows no fault and no verdict after a reset, even one that ends a fault state. -/
@[simp] theorem status_assertReset (s : State) : status (assertReset s) = 0x00 := by
  rw [status, assertReset_err, assertReset_ok]
  decide

/-- Settles O15: a reset next is taken without a look at `ERR`, and R22's table is read off register by register. -/
theorem resetPutsEveryRegisterInItsResetState : Obligations.ResetPutsEveryRegisterInItsResetState := by
  refine fun s rest hp => ⟨assertReset (setPending s rest), step_reset hp, ?registers⟩
  case registers =>
    exact ⟨assertReset_len _, assertReset_crcOut _, assertReset_dout _, assertReset_devAddr _, status_assertReset _,
      assertReset_ok _, assertReset_err _, byteAt_assertReset _⟩

end Sys2Proof.Machine
end

section

namespace Sys2Proof.Machine

/-! ### What a command writes while `ERR` is 0 and it has no fault (R24) -/

/-- The bytes a command stores and the registers it writes with their new values; a register it leaves alone is none. -/
structure WriteSet where
  bytes : List Byte := []
  len : Option Nat := none
  crcOut : Option Half := none
  dout : Option Half := none
  devAddr : Option Byte := none
  ok : Option Bool := none

/-- R24's table with the values written, from the state before the command; `exec_of_effective` says that this is all a
command does. -/
def writeSet (i : Instr) (s : State) : WriteSet :=
  match i with
  | .nop => {}
  | .clr => { len := some 0 }
  | .push b => { bytes := [b], len := some (s.len + 1) }
  | .setlen n => { len := some n.toNat }
  | .wrb _ b => { bytes := [b] }
  | .rdb k => { dout := some (zext16 (byteAt s k.toNat)) }
  | .rdw k => { dout := some (be16 (byteAt s k.toNat) (byteAt s (k.toNat + 1))) }
  | .crc => { crcOut := some (crc16 (currentFrame s)) }
  | .append => { bytes := littleEndian (crc16 (currentFrame s)), len := some (s.len + 2) }
  | .validate => { ok := some (validate (currentFrame s)) }
  | .strip =>
    { len := if validate (currentFrame s) then some (s.len - 2) else none, ok := some (validate (currentFrame s)) }
  | .init a => { devAddr := some (clampAddr a) }
  | .bldrd a r c => { bytes := buildFrame a fcRead r c, len := some cmdFrameLen }
  | .bldwr a r v => { bytes := buildFrame a Config.fcWrite r v, len := some cmdFrameLen }

/-- The state after a command's writes. -/
def effect (i : Instr) (s : State) : State :=
  { s with
    buf := Memory.storeAll s.buf (Statements.storedAt i s) (writeSet i s).bytes
    len := (writeSet i s).len.getD s.len
    crcOut := (writeSet i s).crcOut.getD s.crcOut
    dout := (writeSet i s).dout.getD s.dout
    devAddr := (writeSet i s).devAddr.getD s.devAddr
    ok := (writeSet i s).ok.getD s.ok }

/-- `LEN` is a length the buffer can have, for the commands that the model stops where it is not (log entry 7). -/
def LenFits (i : Instr) (s : State) : Prop :=
  match i with
  | .push _ | .crc | .validate | .strip => s.len ≤ Config.bufSize
  | _ => True

/-- The command is executed to its effect: the block is not stopped, and the command has no fault. -/
structure Effective (i : Instr) (s : State) : Prop where
  err : s.err = .noFault
  fault : Statements.ownFault i s = .noFault
  len : LenFits i s

theorem exec_of_effective {i : Instr} {s : State} (h : Effective i s) : exec i s = .next (effect i s) := by
  obtain ⟨hs, hf, hlen⟩ := h
  cases i with
  | nop => rfl
  | clr => exact exec_clr hs
  | push b => exact exec_push_inside b hs (lt_of_le_of_ne hlen (not_outside_of_no_fault hf))
  | setlen n => exact exec_setlen_inside hs (Nat.not_lt.1 (not_outside_of_no_fault hf))
  | wrb k b => exact exec_wrb_inside b hs (Nat.not_le.1 (not_outside_of_no_fault hf))
  | rdb k => exact exec_rdb_inside hs (Nat.not_le.1 (not_outside_of_no_fault hf))
  | rdw k => exact exec_rdw_inside hs (Nat.not_le.1 (not_outside_of_no_fault hf))
  | crc => exact exec_crc ⟨hs, hlen⟩
  | append => exact exec_append_inside hs (Nat.not_lt.1 (not_outside_of_no_fault hf))
  | validate => exact exec_validate ⟨hs, hlen⟩
  | strip =>
    rw [exec_strip ⟨hs, hlen⟩, effect, writeSet]
    cases validate (currentFrame s) <;> rfl
  | init a => exact exec_init a hs
  | bldrd a r c => exact exec_bldrd a r c hs
  | bldwr a r v => exact exec_bldwr a r v hs

theorem lenFits_of_exec {i : Instr} {s t : State} (hs : s.err = .noFault) (h : exec i s = .next t) : LenFits i s := by
  cases i with
  | push b =>
    refine Nat.not_lt.1 fun hlen => ?_
    cases (exec_push_beyond b hs hlen).symm.trans h
  | crc | validate | strip => exact (loadFrame_next.1 ((whileRunning_noFault hs).symm.trans h)).1
  | nop | clr | setlen | wrb | rdb | rdw | append | init | bldrd | bldwr => trivial

theorem eq_of_next {r : Result} {t u : State} (ht : r = .next t) (hu : r = .next u) : t = u :=
  Host.Outcome.next.inj (ht.symm.trans hu)

/-- All that a command can answer next: nothing while the block is stopped, its own fault, or its effect. -/
theorem exec_cases {i : Instr} {s t : State} (h : exec i s = .next t) :
    (s.err ≠ .noFault ∧ t = s) ∨
    (s.err = .noFault ∧ Statements.ownFault i s ≠ .noFault ∧ t = setErr s (Statements.ownFault i s)) ∨
    (Effective i s ∧ t = effect i s) := by
  by_cases hs : s.err = .noFault
  · by_cases hf : Statements.ownFault i s = .noFault
    · have heff : Effective i s := ⟨hs, hf, lenFits_of_exec hs h⟩
      exact .inr (.inr ⟨heff, eq_of_next h (exec_of_effective heff)⟩)
    · exact .inr (.inl ⟨hs, hf, eq_of_next h (exec_of_ownFault hs hf)⟩)
  · exact .inl ⟨hs, eq_of_next h (exec_stopped i hs)⟩

/-! ### The bytes a command stores -/

@[simp] theorem length_writeSet_bytes (i : Instr) (s : State) :
    (writeSet i s).bytes.length = Statements.storedCount i := by
  cases i <;> rfl

/-- Every stored byte is inside the buffer (R42). -/
theorem Effective.stores_inside {i : Instr} {s : State} (h : Effective i s) :
    Statements.storedAt i s + Statements.storedCount i ≤ Config.bufSize := by
  obtain ⟨-, hf, hlen⟩ := h
  cases i with
  | push => exact Nat.lt_of_le_of_ne hlen (not_outside_of_no_fault hf)
  | wrb => exact Nat.not_le.1 (not_outside_of_no_fault hf)
  | append => exact Nat.not_lt.1 (not_outside_of_no_fault hf)
  | bldrd | bldwr => exact (lt_bufSize_of_lt (k := 8) (by decide)).le
  | nop | clr | setlen | rdb | rdw | crc | validate | strip | init => exact Nat.zero_le _

theorem lookup_effect (i : Instr) (s : State) (j : Nat) :
    Memory.lookup (effect i s).buf j =
      if Statements.storedAt i s ≤ j ∧ j < Statements.storedAt i s + Statements.storedCount i then
        (writeSet i s).bytes[j - Statements.storedAt i s]?
      else Memory.lookup s.buf j := by
  rw [← length_writeSet_bytes i s]
  exact Memory.lookup_storeAll ..

/-- No command makes a written byte unwritten. -/
theorem lookup_eq_none_of_effect {i : Instr} {s : State} {j : Nat} (h : Memory.lookup (effect i s).buf j = none) :
    Memory.lookup s.buf j = none := by
  rw [lookup_effect] at h
  split at h
  next hin =>
    have hlen := length_writeSet_bytes i s
    have hout := List.getElem?_eq_none_iff.1 h
    omega
  next => exact h

/-! ### A command keeps the invariant (R25) -/

theorem clampAddr_mem (a : Byte) : 0x01 ≤ clampAddr a ∧ clampAddr a ≤ 0xF8 := by
  by_cases ha : 0x01 ≤ a ∧ a ≤ 0xF8
  · rwa [clampAddr_of_mem ha]
  · rw [clampAddr_of_not_mem ha]
    decide

theorem Effective.len_le {i : Instr} {s : State} (h : Effective i s) (hs : s.len ≤ Config.bufSize) :
    (effect i s).len ≤ Config.bufSize := by
  have hstore := h.stores_inside
  cases i with
  | clr => exact Nat.zero_le _
  | push | append | bldrd | bldwr => exact hstore
  | setlen => exact Nat.not_lt.1 (not_outside_of_no_fault h.fault)
  | strip =>
    rw [effect, writeSet]
    cases validate (currentFrame s)
    · exact hs
    · exact (Nat.sub_le s.len 2).trans hs
  | nop | wrb | rdb | rdw | crc | validate | init => exact hs

theorem effect_devAddr_mem (i : Instr) {s : State} (hs : 0x01 ≤ s.devAddr ∧ s.devAddr ≤ 0xF8) :
    0x01 ≤ (effect i s).devAddr ∧ (effect i s).devAddr ≤ 0xF8 := by
  cases i with
  | init a => exact clampAddr_mem a
  | nop | clr | push | setlen | wrb | rdb | rdw | crc | append | validate | strip | bldrd | bldwr => exact hs

theorem Effective.wf_buf {i : Instr} {s : State} (h : Effective i s) (hs : Memory.wf s.buf = true) :
    Memory.wf (effect i s).buf = true :=
  Memory.wf_storeAll _ _ _ (by rw [length_writeSet_bytes]; exact h.stores_inside) hs

theorem exec_keeps_inv {i : Instr} {s t : State} (hs : Inv s) (h : exec i s = .next t) : Inv t := by
  obtain ⟨-, rfl⟩ | ⟨-, -, rfl⟩ | ⟨heff, rfl⟩ := exec_cases h
  · exact hs
  · exact hs
  · obtain ⟨hlen, hlo, hhi, hwf⟩ := hs
    obtain ⟨hlo', hhi'⟩ := effect_devAddr_mem i ⟨hlo, hhi⟩
    exact ⟨heff.len_le hlen, hlo', hhi', heff.wf_buf hwf⟩

/-! ### What a step can do (R111, R131) -/

/-- An illegal word's step: the event is taken, and `ERR` is set unless the block is stopped. -/
theorem step_illegal_word {s : State} {w : CommandWord} {why : IllegalWord} {rest : List HostEvent}
    (hp : s.pending = .command w :: rest) (hw : decode w = .illegal why) :
    step s = .next (if s.err = .noFault then setErr (setPending s rest) .illegalCommand else setPending s rest) := by
  rw [step, takeEvent_cons hp]
  simp only [hw]
  exact raise_eq .illegalCommand (setPending s rest)

/-- All that a step can answer next, by the host's event. -/
theorem step_cases {s t : State} (h : step s = .next t) :
    (s.pending = [] ∧ t = s) ∨
    (∃ rest, s.pending = .reset :: rest ∧ t = assertReset (setPending s rest)) ∨
    (∃ n rest, s.pending = .readPort n :: rest ∧ t = setPortOut (setPending s rest) (portRead s n)) ∨
    (∃ w i rest, s.pending = .command w :: rest ∧ decode w = .command i ∧ exec i (setPending s rest) = .next t) ∨
    ∃ w why rest, s.pending = .command w :: rest ∧ decode w = .illegal why ∧
      t = if s.err = .noFault then setErr (setPending s rest) .illegalCommand else setPending s rest := by
  match hp : s.pending with
  | [] => exact .inl ⟨rfl, eq_of_next h (step_idle hp)⟩
  | .reset :: rest => exact .inr (.inl ⟨rest, rfl, eq_of_next h (step_reset hp)⟩)
  | .readPort n :: rest =>
    exact .inr (.inr (.inl ⟨n, rest, rfl, eq_of_next h (step_readPort hp)⟩))
  | .command w :: rest =>
    cases hw : decode w with
    | command i => exact .inr (.inr (.inr (.inl ⟨w, i, rest, rfl, hw, (step_command hp hw).symm.trans h⟩)))
    | illegal why =>
      exact .inr (.inr (.inr (.inr ⟨w, why, rest, rfl, hw,
        eq_of_next h (step_illegal_word hp hw)⟩)))

theorem inv_of_resetValues {s : State} (hbuf : s.buf = []) (hlen : s.len = 0) (hdev : s.devAddr = 0xF8) : Inv s := by
  rw [Inv, hbuf, hlen, hdev]
  exact ⟨Nat.zero_le _, by decide, by decide, rfl⟩

theorem step_keeps_inv {s t : State} (hs : Inv s) (h : step s = .next t) : Inv t := by
  obtain ⟨-, rfl⟩ | ⟨rest, -, rfl⟩ | ⟨n, rest, -, rfl⟩ | ⟨w, i, rest, -, -, hexec⟩ | ⟨w, why, rest, -, -, rfl⟩ :=
    step_cases h
  · exact hs
  · exact inv_of_resetValues rfl rfl rfl
  · exact hs
  · exact exec_keeps_inv (s := setPending s rest) hs hexec
  · split <;> exact hs

/-- Settles O19: the invariant event by event, command by command; the two facts on `STATUS` hold of every state. -/
theorem everyStepKeepsTheInvariant : Obligations.EveryStepKeepsTheInvariant :=
  fun _ t hs h => ⟨step_keeps_inv hs h, extractLsb'_status_reserved t, errCode_le_three t.err⟩

/-! ### Every run completes (section 5 of 70_reset_and_hazards.md) -/

theorem step_completes {s : State} (hlen : s.len ≤ Config.bufSize) : ∃ t, step s = .next t := by
  match hp : s.pending with
  | [] => exact ⟨_, step_idle hp⟩
  | .reset :: rest => exact ⟨_, step_reset hp⟩
  | .readPort n :: rest => exact ⟨_, step_readPort hp⟩
  | .command w :: rest =>
    by_cases hs : s.err = .noFault
    · cases hw : decode w with
      | command i =>
        obtain ⟨t, ht, -⟩ := exec_running i (s := setPending s rest) ⟨hs, hlen⟩
        exact ⟨t, (step_command hp hw).trans ht⟩
      | illegal why => exact ⟨_, step_illegal hw hs hp⟩
    · exact ⟨_, step_stopped hs hp⟩

/-- Settles O21: each event of the host has its next state, and a running block completes every command. -/
theorem everyStepAnswersANextState : Obligations.EveryStepAnswersANextState :=
  fun _ => step_completes

theorem run_succ {M : Host.Core} {s t : M.State} (h : M.step s = .next t) (n : Nat) : M.run (n + 1) s = M.run n t := by
  rw [Host.Core.run, h]

theorem run_completes_in_inv (n : Nat) {s : State} (hs : Inv s) :
    ∃ t : State, Host.Core.run Sys2Proof.core n s = .next t ∧ Inv t := by
  induction n generalizing s with
  | zero => exact ⟨s, rfl, hs⟩
  | succ n ih =>
    obtain ⟨u, hu⟩ := step_completes hs.1
    obtain ⟨t, ht, htinv⟩ := ih (step_keeps_inv hs hu)
    exact ⟨t, (run_succ (M := Sys2Proof.core) hu n).trans ht, htinv⟩

/-- Settles O20: nothing is written, and the reset values are in their ranges. -/
theorem resetStateMeetsTheInvariant : Obligations.ResetStateMeetsTheInvariant :=
  fun _ => inv_of_resetValues rfl rfl rfl

theorem errCode_cases (e : ErrCode) :
    e = .noFault ∨ e = .illegalCommand ∨ e = .bufferOverflow ∨ e = .indexOutOfRange := by
  cases e <;> decide

/-- Settles O22: by induction on the number of steps, each completes and keeps the invariant; reset meets it. -/
theorem everyRunCompletesInTheInvariant : Obligations.EveryRunCompletesInTheInvariant := by
  refine ⟨fun n s => run_completes_in_inv n, fun n events => ?fromReset⟩
  case fromReset =>
    obtain ⟨t, ht, hlen, hlo, hhi, -⟩ := run_completes_in_inv n (resetStateMeetsTheInvariant events)
    have herr : (status t).extractLsb' 1 3 ≤ 3 := by
      rw [extractLsb'_status_err]
      exact errCode_le_three t.err
    exact ⟨t, ht, hlen, hlo, hhi, extractLsb'_status_reserved t, errCode_cases t.err, herr⟩

end Sys2Proof.Machine
end

section

namespace Sys2Proof.Machine

/-! ### The frame of every command (R24) -/

theorem effect_len_unwritten {i : Instr} (hi : Statements.writesLen i = false) (s : State) :
    (effect i s).len = s.len := by
  cases i with
  | nop | wrb | rdb | rdw | crc | validate | init => rfl
  | clr | push | setlen | append | strip | bldrd | bldwr => cases hi

theorem effect_crcOut_unwritten {i : Instr} (hi : Statements.writesCrcOut i = false) (s : State) :
    (effect i s).crcOut = s.crcOut := by
  cases i with
  | crc => cases hi
  | nop | clr | push | setlen | wrb | rdb | rdw | append | validate | strip | init | bldrd | bldwr => rfl

theorem effect_dout_unwritten {i : Instr} (hi : Statements.writesDout i = false) (s : State) :
    (effect i s).dout = s.dout := by
  cases i with
  | rdb | rdw => cases hi
  | nop | clr | push | setlen | wrb | crc | append | validate | strip | init | bldrd | bldwr => rfl

theorem effect_devAddr_unwritten {i : Instr} (hi : Statements.writesDevAddr i = false) (s : State) :
    (effect i s).devAddr = s.devAddr := by
  cases i with
  | init => cases hi
  | nop | clr | push | setlen | wrb | rdb | rdw | crc | append | validate | strip | bldrd | bldwr => rfl

theorem effect_ok_unwritten {i : Instr} (hi : Statements.writesOk i = false) (s : State) : (effect i s).ok = s.ok := by
  cases i with
  | validate | strip => cases hi
  | nop | clr | push | setlen | wrb | rdb | rdw | crc | append | init | bldrd | bldwr => rfl

/-- A byte outside the stored ones reads as before. -/
theorem byteAt_effect_outside {i : Instr} {s : State} {j : Nat}
    (hj : j < Statements.storedAt i s ∨ Statements.storedAt i s + Statements.storedCount i ≤ j) :
    byteAt (effect i s) j = byteAt s j := by
  have hlookup : Memory.lookup (effect i s).buf j = Memory.lookup s.buf j := by
    rw [lookup_effect, if_neg (by omega)]
  rw [byteAt, hlookup]
  rfl

/-- Settles O23: a stopped block and a fault write no byte and no register but `ERR`; an effect writes its own set. -/
theorem commandsWriteOnlyTheirOwnState : Obligations.CommandsWriteOnlyTheirOwnState := by
  intro i s t h
  obtain ⟨hs, rfl⟩ | ⟨hs, -, rfl⟩ | ⟨heff, rfl⟩ := exec_cases h
  · exact ⟨fun _ _ => rfl, fun _ => rfl, fun _ => rfl, fun _ => rfl, fun _ => rfl, fun _ => rfl, (if_neg hs).symm, rfl,
      rfl, rfl⟩
  · exact ⟨fun _ _ => rfl, fun _ => rfl, fun _ => rfl, fun _ => rfl, fun _ => rfl, fun _ => rfl, (if_pos hs).symm, rfl,
      rfl, rfl⟩
  · have herr : s.err = if s.err = .noFault then Statements.ownFault i s else s.err := by
      rw [if_pos heff.err, heff.fault, heff.err]
    exact ⟨fun _ => byteAt_effect_outside, fun hi => effect_len_unwritten hi s, fun hi => effect_crcOut_unwritten hi s,
      fun hi => effect_dout_unwritten hi s, fun hi => effect_devAddr_unwritten hi s, fun hi => effect_ok_unwritten hi s,
      herr, rfl, rfl, rfl⟩

/-! ### Unwritten bytes (R121, R125) -/

/-- No written byte becomes unwritten, and the bytes that stay unwritten keep their free values. -/
def KeepsUnwritten (s t : State) : Prop :=
  t.resets = s.resets ∧ ∀ j, Memory.lookup t.buf j = none → Memory.lookup s.buf j = none ∧ byteAt t j = byteAt s j

theorem byteAt_of_lookup_eq_none {s : State} {j : Nat} (h : Memory.lookup s.buf j = none) :
    byteAt s j = Config.resetByte s.resets j := by
  rw [byteAt, h]
  rfl

theorem keepsUnwritten_of_buf_eq {s t : State} (hbuf : t.buf = s.buf) (hresets : t.resets = s.resets) :
    KeepsUnwritten s t :=
  ⟨hresets, fun j hj => ⟨hbuf ▸ hj, byteAt_congr hbuf hresets j⟩⟩

theorem keepsUnwritten_effect (i : Instr) (s : State) : KeepsUnwritten s (effect i s) := by
  refine ⟨rfl, fun j hj => ?_⟩
  have hbefore := lookup_eq_none_of_effect hj
  exact ⟨hbefore, by rw [byteAt_of_lookup_eq_none hj, byteAt_of_lookup_eq_none hbefore]; rfl⟩

theorem exec_keepsUnwritten {i : Instr} {s t : State} (h : exec i s = .next t) : KeepsUnwritten s t := by
  obtain ⟨-, rfl⟩ | ⟨-, -, rfl⟩ | ⟨-, rfl⟩ := exec_cases h
  · exact keepsUnwritten_of_buf_eq rfl rfl
  · exact keepsUnwritten_of_buf_eq rfl rfl
  · exact keepsUnwritten_effect i s

theorem step_keepsUnwritten {s t : State} (hreset : ∀ rest, s.pending ≠ .reset :: rest) (h : step s = .next t) :
    KeepsUnwritten s t := by
  obtain ⟨-, rfl⟩ | ⟨rest, hp, -⟩ | ⟨n, rest, -, rfl⟩ | ⟨w, i, rest, -, -, hexec⟩ | ⟨w, why, rest, -, -, rfl⟩ :=
    step_cases h
  · exact keepsUnwritten_of_buf_eq rfl rfl
  · exact absurd hp (hreset rest)
  · exact keepsUnwritten_of_buf_eq rfl rfl
  · exact exec_keepsUnwritten (s := setPending s rest) hexec
  · split <;> exact keepsUnwritten_of_buf_eq rfl rfl

/-- Settles O16: the reset's one state, and every other step by the host's event. -/
theorem unwrittenBytesKeepTheirValueUntilReset : Obligations.UnwrittenBytesKeepTheirValueUntilReset := by
  refine ⟨fun s t rest hp h => ?reset, fun s t => step_keepsUnwritten⟩
  case reset =>
    cases (step_reset hp).symm.trans h
    rfl

/-! ### The result registers are never inputs (sections 2 and 3 of 10_state.md) -/

/-- The state with other values in the four result registers. -/
def withResults (s : State) (c d : Half) (a : Byte) (o : Bool) : State :=
  { s with crcOut := c, dout := d, devAddr := a, ok := o }

section
variable (i : Instr) (s : State) (c d : Half) (a : Byte) (o : Bool)

@[simp] theorem withResults_len : (withResults s c d a o).len = s.len := rfl

@[simp] theorem byteAt_withResults (j : Nat) : byteAt (withResults s c d a o) j = byteAt s j := rfl

@[simp] theorem currentFrame_withResults : currentFrame (withResults s c d a o) = currentFrame s :=
  bytesFrom_congr 0 s.len fun _ _ _ => rfl

/-- No command reads a result register: it writes the same values whatever they hold. -/
theorem writeSet_withResults : writeSet i (withResults s c d a o) = writeSet i s := by
  cases i with
  | crc | append | validate | strip =>
    simp only [writeSet, currentFrame_withResults, withResults_len]
  | nop | clr | push | setlen | wrb | rdb | rdw | init | bldrd | bldwr => rfl

end

theorem Effective.withResults {i : Instr} {s : State} (h : Effective i s) (c d : Half) (a : Byte) (o : Bool) :
    Effective i (withResults s c d a o) :=
  ⟨h.err, h.fault, h.len⟩

/-- A register that two runs write alike holds the same value in both, or is kept in both. -/
theorem getD_eq_or_kept {α : Type} (written : Option α) (x y : α) :
    written.getD y = written.getD x ∨ (written.getD x = x ∧ written.getD y = y) := by
  cases written with
  | none => exact .inr ⟨rfl, rfl⟩
  | some v => exact .inl rfl

/-- Settles O24: a stopped block and a fault keep the four registers, and an effect's set of writes does not depend on
them. -/
theorem resultRegistersAreNeverInputs : Obligations.ResultRegistersAreNeverInputs := by
  intro i s t c d a o h
  obtain ⟨hs, rfl⟩ | ⟨hs, hf, rfl⟩ | ⟨heff, rfl⟩ := exec_cases h
  · exact ⟨_, exec_stopped i hs, rfl, rfl, rfl, .inr ⟨rfl, rfl⟩, .inr ⟨rfl, rfl⟩, .inr ⟨rfl, rfl⟩, .inr ⟨rfl, rfl⟩⟩
  · exact ⟨_, exec_of_ownFault (s := withResults s c d a o) hs hf, rfl, rfl, rfl, .inr ⟨rfl, rfl⟩, .inr ⟨rfl, rfl⟩,
      .inr ⟨rfl, rfl⟩, .inr ⟨rfl, rfl⟩⟩
  · refine ⟨effect i (withResults s c d a o), exec_of_effective (heff.withResults c d a o), ?_⟩
    rw [effect, writeSet_withResults]
    exact ⟨rfl, rfl, rfl, getD_eq_or_kept .., getD_eq_or_kept .., getD_eq_or_kept .., getD_eq_or_kept ..⟩

/-! ### Reads (section 3 of 20_memory.md, section 4 of 10_state.md) -/

/-- A command whose effect, done again, is the same and meets no new fault answers its own next state again. -/
theorem exec_idempotent_of_effect {i : Instr} {s t : State} (h : exec i s = .next t)
    (hagain : Effective i s → Effective i (effect i s) ∧ effect i (effect i s) = effect i s) : exec i t = .next t := by
  obtain ⟨hs, rfl⟩ | ⟨hs, hf, rfl⟩ | ⟨heff, rfl⟩ := exec_cases h
  · exact h
  · exact exec_stopped i hf
  · obtain ⟨heff', heq⟩ := hagain heff
    rw [exec_of_effective heff', heq]

/-- Settles O26: `CRC` and `VALIDATE` do not change the frame they read, nor `RDB` and `RDW` the bytes. -/
theorem repeatedReadsGiveTheSameResult : Obligations.RepeatedReadsGiveTheSameResult := by
  intro i s t hi h
  obtain rfl | rfl | ⟨k, rfl⟩ | ⟨k, rfl⟩ := hi
  · exact exec_crc_idempotent h
  · exact exec_validate_idempotent h
  · exact exec_idempotent_of_effect h fun heff => ⟨⟨heff.err, heff.fault, trivial⟩, rfl⟩
  · exact exec_idempotent_of_effect h fun heff => ⟨⟨heff.err, heff.fault, trivial⟩, rfl⟩

/-- Settles O28: `RDB` gives the byte of the buffer that `WRB` left at its index. -/
theorem readReturnsTheLatestWrite : Obligations.ReadReturnsTheLatestWrite := by
  intro s i k b hs hi hk
  refine ⟨_, _, exec_wrb_inside b hs.1 hi, exec_rdb_inside (s := setBuf s _) hs.1 hk, ?_⟩
  rw [setDout_dout, byteAt_store_byte, apply_ite zext16]
  simp only [BitVec.toNat_inj]

/-- Settles O25: both commands' results are functions of the current frame. -/
theorem crcAndVerdictDependOnTheFrameAlone : Obligations.CrcAndVerdictDependOnTheFrameAlone := by
  intro s₁ s₂ hs₁ hs₂ hframe
  exact ⟨⟨_, _, exec_crc hs₁, exec_crc hs₂, congrArg crc16 hframe⟩,
    _, _, exec_validate hs₁, exec_validate hs₂, congrArg validate hframe⟩

end Sys2Proof.Machine
end

section

namespace Sys2Proof.Machine

/-! ### Decoding and the opcode table (sections B.2 and B.4 of 30_encoding.md) -/

/-- Settles O2: a legal word has its row's opcode, its command's operands and zeros elsewhere. -/
theorem decodedWordsAreTheEncodingsOfTheirCommands : Obligations.DecodedWordsAreTheEncodingsOfTheirCommands :=
  fun _ _ => encode_of_decode

/-- The bits a format fixes: the opcode, and the fields it reserves (R55). -/
def Format.mask : Format → CommandWord
  | .N => joinFields 0xFF 0xFF 0xFFFF 0xFFFF
  | .B => joinFields 0xFF 0 0xFFFF 0xFFFF
  | .I => joinFields 0xFF 0xFF 0 0xFFFF
  | .IB => joinFields 0xFF 0 0 0xFFFF
  | .F => joinFields 0xFF 0 0 0

/-- The mnemonic of a row's command, which has the same one for all operands. -/
def DecodeRow.mnemonic (row : DecodeRow) : String := (row.build 0 0 0).mnemonic

/-- The row of R56's table for a row of the decoder. -/
def DecodeRow.opcodeRow (row : DecodeRow) : OpcodeRow := ⟨row.mnemonic, joinFields row.op 0 0 0, Format.mask row.format⟩

theorem opcodeTable_eq_map_opcodeRow : opcodeTable = decodeRows.map DecodeRow.opcodeRow := by
  decide

theorem joinFields_inj {op a op' a' : Byte} {r v r' v' : Half} :
    joinFields op a r v = joinFields op' a' r' v' ↔ op = op' ∧ a = a' ∧ r = r' ∧ v = v' := by
  constructor
  · intro h
    have hop := congrArg opField h
    have ha := congrArg aField h
    have hr := congrArg rField h
    have hv := congrArg vField h
    simp only [opField_joinFields, aField_joinFields, rField_joinFields, vField_joinFields] at hop ha hr hv
    exact ⟨hop, ha, hr, hv⟩
  · rintro ⟨rfl, rfl, rfl, rfl⟩
    rfl

/-- A word matches a row of the table when it has the row's opcode and zeros where the row's format reserves a field. -/
theorem hits_opcodeRow {row : DecodeRow} {w : CommandWord} :
    row.opcodeRow.hits w = true ↔ opField w = row.op ∧ reservedZero row.format w = true := by
  rw [OpcodeRow.hits, beq_iff_eq, DecodeRow.opcodeRow]
  conv_lhs => rw [← joinFields_fields w]
  have hall8 : ∀ x : Byte, x &&& 0xFF#8 = x := fun _ => BitVec.and_allOnes
  have hall16 : ∀ x : Half, x &&& 0xFFFF#16 = x := fun _ => BitVec.and_allOnes
  cases row.format <;>
    simp [Format.mask, Laws.LegalWord.and_joinFields, joinFields_inj, hall8, hall16, reservedZero, and_assoc]

theorem mnemonic_instrOf {row : DecodeRow} (hrow : row ∈ decodeRows) (w : CommandWord) :
    (row.instrOf w).mnemonic = row.mnemonic := by
  fin_cases hrow <;> rfl

/-- No two opcodes have the same mnemonic. -/
theorem op_eq_of_mnemonic_eq :
    ∀ row ∈ decodeRows, ∀ row' ∈ decodeRows, row.mnemonic = row'.mnemonic → row.op = row'.op := by
  decide

/-- A word decodes to the command of a row's mnemonic when it has the row's opcode and zeros in the reserved fields. -/
theorem decode_mnemonic_iff {row : DecodeRow} (hrow : row ∈ decodeRows) {w : CommandWord} :
    (∃ i, decode w = .command i ∧ i.mnemonic = row.mnemonic) ↔
      opField w = row.op ∧ reservedZero row.format w = true := by
  constructor
  · rintro ⟨i, hi, hname⟩
    obtain ⟨row', hrow', hop', hdec⟩ | ⟨-, hdec⟩ := decode_cases w
    · obtain ⟨-, rfl⟩ := accept_eq_command.1 (hdec.symm.trans hi)
      rw [mnemonic_instrOf hrow'] at hname
      have hop : opField w = row.op := hop'.trans (op_eq_of_mnemonic_eq row' hrow' row hrow hname)
      exact ⟨hop, (accept_eq_command.1 ((decode_of_row hrow hop).symm.trans hi)).1⟩
    · cases hdec.symm.trans hi
  · rintro ⟨hop, hzero⟩
    exact ⟨row.instrOf w, (decode_of_row hrow hop).trans (if_pos hzero), mnemonic_instrOf hrow w⟩

/-- Settles O4: both sides say that the word has the row's opcode and zeros in its format's reserved fields. -/
theorem tableRowsSelectExactlyTheirCommand : Obligations.TableRowsSelectExactlyTheirCommand := by
  intro w tableRow hmem
  rw [opcodeTable_eq_map_opcodeRow] at hmem
  obtain ⟨row, hrow, rfl⟩ := List.mem_map.1 hmem
  exact hits_opcodeRow.trans (decode_mnemonic_iff hrow).symm

/-- Settles O7: eleven words, evaluated. -/
theorem sampleWordsDecode : Obligations.SampleWordsDecode := by
  unfold Obligations.SampleWordsDecode
  decide

/-- Settles O8: the event is taken, and the word's command runs. -/
theorem stepRunsTheDecodedCommand : Obligations.StepRunsTheDecodedCommand :=
  fun _ _ _ _ => step_command

/-- Settles O56: the lines read and expanded by evaluation. -/
theorem sampleLinesAssemble : Obligations.SampleLinesAssemble := by
  unfold Obligations.SampleLinesAssemble
  decide

end Sys2Proof.Machine
end

section

namespace Sys2Proof.Machine

/-! ### The rounds of the CRC: linear, and without loss (R70) -/

/-- What a round adds to the shifted value: the polynomial, when the bit shifted out is 1. -/
def roundPoly (c : Half) : Half := if c.getLsbD 0 then crcPoly else 0

theorem crcRound_eq (c : Half) : crcRound c = (c >>> 1) ^^^ roundPoly c := by
  rw [crcRound, roundPoly]
  split
  · rfl
  · exact BitVec.xor_zero.symm

theorem roundPoly_xor (x y : Half) : roundPoly (x ^^^ y) = roundPoly x ^^^ roundPoly y := by
  rw [roundPoly, roundPoly, roundPoly, BitVec.getLsbD_xor]
  cases x.getLsbD 0 <;> cases y.getLsbD 0 <;> decide

theorem crcRound_xor (x y : Half) : crcRound (x ^^^ y) = crcRound x ^^^ crcRound y := by
  rw [crcRound_eq, crcRound_eq, crcRound_eq, roundPoly_xor, BitVec.ushiftRight_xor_distrib]
  ac_rfl

theorem crcRounds_xor (n : Nat) (x y : Half) : crcRounds n (x ^^^ y) = crcRounds n x ^^^ crcRounds n y := by
  induction n generalizing x y with
  | zero => rfl
  | succ n ih => rw [crcRounds, crcRound_xor, ih]; rfl

/-- The polynomial has the top bit, so the top bit of the result is the bit shifted out. -/
theorem getLsbD_crcRound_top (c : Half) : (crcRound c).getLsbD 15 = c.getLsbD 0 := by
  have hpoly : crcPoly.getLsbD 15 = true := rfl
  have hbeyond : c.getLsbD (1 + 15) = false := BitVec.getLsbD_of_ge c _ (Nat.le_refl 16)
  rw [crcRound]
  split
  next hset => rw [BitVec.getLsbD_xor, BitVec.getLsbD_ushiftRight, hbeyond, hpoly, hset, Bool.false_xor]
  next hclear => rw [BitVec.getLsbD_ushiftRight, hbeyond, Bool.eq_false_iff.2 hclear]

theorem crcRound_of_low_zero {c : Half} (h : c.getLsbD 0 = false) : crcRound c = c >>> 1 := by
  rw [crcRound, h]
  rfl

theorem eq_zero_of_crcRound_eq_zero {c : Half} (h : crcRound c = 0) : c = 0 := by
  have hlow : c.getLsbD 0 = false := by rw [← getLsbD_crcRound_top, h]; rfl
  rw [crcRound_of_low_zero hlow] at h
  apply BitVec.eq_of_getLsbD_eq
  intro i _
  cases i with
  | zero => rw [hlow]; rfl
  | succ i => rw [Nat.add_comm, ← BitVec.getLsbD_ushiftRight, h]; simp

theorem eq_zero_of_crcRounds_eq_zero {n : Nat} {c : Half} (h : crcRounds n c = 0) : c = 0 := by
  induction n generalizing c with
  | zero => exact h
  | succ n ih => exact eq_zero_of_crcRound_eq_zero (ih h)

/-- Different values stay different. -/
theorem crcRounds_inj {n : Nat} {x y : Half} : crcRounds n x = crcRounds n y ↔ x = y := by
  refine ⟨fun h => ?_, congrArg _⟩
  rw [← BitVec.xor_eq_zero_iff, ← crcRounds_xor] at h
  exact BitVec.xor_eq_zero_iff.1 (eq_zero_of_crcRounds_eq_zero h)

/-- As long as the bits shifted out are zeros, the rounds only shift. -/
theorem crcRounds_of_low_zeros {n : Nat} {c : Half} (h : ∀ i < n, c.getLsbD i = false) : crcRounds n c = c >>> n := by
  induction n generalizing c with
  | zero => exact (BitVec.ushiftRight_zero c).symm
  | succ n ih =>
    rw [crcRounds, crcRound_of_low_zero (h 0 (Nat.succ_pos n)), ih fun i hi => ?_, ← BitVec.shiftRight_add,
      Nat.add_comm]
    rw [BitVec.getLsbD_ushiftRight]
    exact h (1 + i) (by omega)

/-! ### The table lookup is eight rounds (R72, R74) -/

theorem crcRounds_eight_of_lo8_eq_zero {c : Half} (h : lo8 c = 0#8) : crcRounds 8 c = c >>> 8 := by
  refine crcRounds_of_low_zeros fun i hi => ?_
  have hbit := congrArg (BitVec.getLsbD · i) h
  simpa [lo8, hi] using hbit

theorem zext16_shiftRight_eight (b : Byte) : zext16 b >>> 8 = 0#16 := by
  ext i hi
  simp [zext16]

/-- The rounds act on the low byte, which gives the table's entry, and only shift the high one. -/
theorem crcRounds_eight (x : Half) : crcRounds 8 x = (x >>> 8) ^^^ crcTableAt (lo8 x) := by
  have hlow : lo8 (x ^^^ zext16 (lo8 x)) = 0#8 := by rw [lo8_xor, lo8_zext16, BitVec.xor_self]
  have hsplit : x = (x ^^^ zext16 (lo8 x)) ^^^ zext16 (lo8 x) := by
    rw [BitVec.xor_assoc, BitVec.xor_self, BitVec.xor_zero]
  calc crcRounds 8 x
    _ = crcRounds 8 (x ^^^ zext16 (lo8 x)) ^^^ tableEntry (lo8 x) := by rw [tableEntry, ← crcRounds_xor, ← hsplit]
    _ = (x >>> 8) ^^^ crcTableAt (lo8 x) := by
      rw [crcRounds_eight_of_lo8_eq_zero hlow, BitVec.ushiftRight_xor_distrib, zext16_shiftRight_eight,
        BitVec.xor_zero, crcTableAt_eq_tableEntry]

theorem crcStep_eq_crcBitStep (crc : Half) (b : Byte) : crcStep crc b = crcBitStep crc b := by
  rw [crcBitStep, crcRounds_eight, crcStep, BitVec.ushiftRight_xor_distrib, zext16_shiftRight_eight,
    BitVec.xor_zero]

/-- Settles O32: step by step the lookup is the eight rounds, so the folds agree. -/
theorem tableDrivenCrcEqualsBitSerialCrc : Obligations.TableDrivenCrcEqualsBitSerialCrc := by
  intro s
  rw [crc16, crcFold_eq_foldl]
  congr
  funext crc b
  rw [crcStep_eq_crcBitStep, crcBitStep, crcRounds_eq_iterate]
  rfl

/-! ### What the CRC detects (R78) -/

theorem zext16_inj {x y : Byte} : zext16 x = zext16 y ↔ x = y :=
  ⟨fun h => by rw [← lo8_zext16 x, h, lo8_zext16], congrArg _⟩

/-- Two steps with the same byte, or from the same value, differ when the other differs. -/
theorem crcStep_left_inj {c c' : Half} (b : Byte) : crcStep c b = crcStep c' b ↔ c = c' := by
  rw [crcStep_eq_crcBitStep, crcStep_eq_crcBitStep, crcBitStep, crcBitStep, crcRounds_inj, BitVec.xor_left_inj]

theorem crcStep_right_inj (c : Half) {b b' : Byte} : crcStep c b = crcStep c b' ↔ b = b' := by
  rw [crcStep_eq_crcBitStep, crcStep_eq_crcBitStep, crcBitStep, crcBitStep, crcRounds_inj, BitVec.xor_right_inj,
    zext16_inj]

theorem crcFold_inj {c c' : Half} (s : List Byte) : crcFold c s = crcFold c' s ↔ c = c' := by
  induction s generalizing c c' with
  | nil => exact Iff.rfl
  | cons b s ih => exact ih.trans (crcStep_left_inj b)

/-- The CRC detects every change of one byte. -/
theorem crcFold_set_ne {s : List Byte} {j : Nat} (hj : j < s.length) {b : Byte} (hb : b ≠ s[j]) (c : Half) :
    crcFold c (s.set j b) ≠ crcFold c s := by
  induction s generalizing c j with
  | nil => exact absurd hj (Nat.not_lt_zero j)
  | cons x s ih =>
    cases j with
    | zero => exact fun h => hb ((crcStep_right_inj c).1 ((crcFold_inj s).1 h))
    | succ j => exact ih (Nat.lt_of_succ_lt_succ hj) hb (crcStep c x)

/-- One bit of a byte changed changes the byte. -/
theorem xor_bit_ne (b : Byte) {k : Nat} (hk : k < 8) : b ^^^ (1 <<< k) ≠ b := by
  have hbit : ∀ k < 8, ((1 <<< k : Nat) : Byte) ≠ 0#8 := by decide
  exact fun h => hbit k hk (by simpa using h)

theorem crc16_flipBit_ne {s : List Byte} {j k : Nat} (hj : j < s.length) (hk : k < 8) :
    crc16 (Statements.flipBit s j k) ≠ crc16 s := by
  refine crcFold_set_ne hj ?_ crcSeed
  rw [List.getD_eq_getElem _ _ hj]
  exact xor_bit_ne _ hk

@[simp] theorem hi8_xor (x y : Half) : hi8 (x ^^^ y) = hi8 x ^^^ hi8 y :=
  BitVec.extractLsb'_xor

/-- Eight rounds bring a high byte down, its low byte being 0. -/
theorem crcRounds_be16_zero (y : Byte) : crcRounds 8 (be16 y 0#8) = zext16 y := by
  have hshift : be16 y 0#8 >>> 8 = zext16 y := by
    ext i hi
    simp only [be16, zext16, BitVec.getElem_ushiftRight, BitVec.getElem_setWidth]
    rw [BitVec.getLsbD_append, if_neg (by omega), Nat.add_sub_cancel_left]
  rw [crcRounds_eight_of_lo8_eq_zero (lo8_be16 y 0#8), hshift]

/-- Only the running value itself, as two bytes low byte first, takes it to 0. -/
theorem crcFold_pair_eq_zero_iff {c : Half} {x y : Byte} : crcFold c [x, y] = 0 ↔ [x, y] = littleEndian c := by
  refine ⟨fun h => ?onlyCrc, fun h => h ▸ crcFold_littleEndian c⟩
  case onlyCrc =>
    rw [crcFold, crcFold, crcFold, crcStep_eq_crcBitStep, crcBitStep] at h
    have hlast : crcStep c x = zext16 y := BitVec.xor_eq_zero_iff.1 (eq_zero_of_crcRounds_eq_zero h)
    rw [crcStep_eq_crcBitStep, crcBitStep, ← crcRounds_be16_zero y, crcRounds_inj] at hlast
    have hlow := congrArg lo8 hlast
    have hhigh := congrArg hi8 hlast
    rw [lo8_xor, lo8_zext16, lo8_be16, BitVec.xor_eq_zero_iff] at hlow
    rw [hi8_xor, hi8_zext16, hi8_be16] at hhigh
    rw [littleEndian, hlow, ← hhigh]
    simp

/-- A frame is valid when it is long enough and its CRC, the CRC field included, is 0 (R92). -/
theorem validate_iff_crc16_eq_zero {f : List Byte} : validate f = true ↔ 2 < f.length ∧ crc16 f = 0 := by
  rw [validate_iff]
  refine and_congr_right fun hlen => ?_
  have htwo : (f.drop (f.length - 2)).length = 2 := by rw [List.length_drop]; omega
  obtain ⟨x, y, hfield⟩ := List.length_eq_two.1 htwo
  have hcrc : crc16 f = crcFold (crc16 (f.take (f.length - 2))) (f.drop (f.length - 2)) := by
    rw [crc16, crc16, ← crcFold_append, List.take_append_drop]
  rw [hcrc, hfield, crcFold_pair_eq_zero_iff]

/-- Settles O33: the residue makes `validate` a test for 0, one byte changed changes the CRC, and two frames with their
CRC fields have the same one. -/
theorem crcCheckValueResidueAndErrorDetection : Obligations.CrcCheckValueResidueAndErrorDetection := by
  refine ⟨by decide +kernel, crc16_appendCrc, fun f => validate_iff_crc16_eq_zero, fun s j k => crc16_flipBit_ne,
    appendCrc [], appendCrc [0x00], ?_, by rw [crc16_appendCrc, crc16_appendCrc]⟩
  decide

end Sys2Proof.Machine
end

section

namespace Sys2Proof.Machine

/-! ### `append_crc` and `validate` (R90, R98) -/

@[simp] theorem length_appendCrc (s : List Byte) : (appendCrc s).length = s.length + 2 :=
  List.length_append

/-- Settles O42: the definition, with the CRC field written out. -/
theorem appendCrcPutsTheLowByteFirst : Obligations.AppendCrcPutsTheLowByteFirst :=
  fun s => ⟨rfl, length_appendCrc s⟩

theorem validate_appendCrc {b : List Byte} (hb : 1 ≤ b.length) : validate (appendCrc b) = true :=
  validate_iff_crc16_eq_zero.2 ⟨by rw [length_appendCrc]; omega, crc16_appendCrc b⟩

theorem validate_buildFrame (a f : Byte) (r v : Half) : validate (buildFrame a f r v) = true :=
  validate_appendCrc (Nat.succ_pos 5)

/-- A valid frame is not valid once a bit of it is changed. -/
theorem validate_flipBit {f : List Byte} {j k : Nat} (hv : validate f = true) (hj : j < f.length) (hk : k < 8) :
    validate (Statements.flipBit f j k) = false := by
  refine Bool.eq_false_iff.2 fun hflip => crc16_flipBit_ne hj hk ?_
  rw [crc16_eq_zero_of_validate hflip, crc16_eq_zero_of_validate hv]

/-- The bytes pushed, with the CRC appended, validate in the buffer too. -/
theorem execAll_push_append_validate {b : List Byte} {s : State} (hb : 1 ≤ b.length)
    (hlen : b.length + 2 ≤ Config.bufSize) (hs : s.err = .noFault) :
    ∃ t, execAll (.clr :: b.map .push ++ [.append, .validate]) s = .next t ∧ t.ok = true ∧
      currentFrame t = appendCrc b := by
  obtain ⟨p, hp, rfl, hperr⟩ := execAll_clr_pushes hs (Nat.le_of_add_right_le hlen)
  rw [length_currentFrame] at hlen
  obtain ⟨u, hu, huerr, hulen, huframe, -⟩ := exec_append_crcField hperr hlen
  have hrun : Running u := ⟨huerr, by rwa [hulen]⟩
  have hv : validate (currentFrame u) = true := by rw [huframe]; exact validate_appendCrc hb
  refine ⟨setOk u true, ?_, setOk_ok u true, (currentFrame_setOk u true).trans huframe⟩
  rw [execAll_append hp, execAll_cons hu, execAll_cons (exec_validate_of_eq hrun hv)]
  rfl

/-- A frame just built in the buffer validates there. -/
theorem exec_validate_withFrame_buildFrame {s : State} (hs : s.err = .noFault) (a f : Byte) (r v : Half) :
    exec .validate (withFrame s (buildFrame a f r v)) = .next (setOk (withFrame s (buildFrame a f r v)) true) := by
  refine exec_validate_of_eq ⟨hs, buildFrame_fits a f r v⟩ ?_
  rw [currentFrame_withFrame, validate_buildFrame]

/-- Settles O50: frames and buffer alike have CRC 0 with their CRC field, and no single bit changed leaves it 0. -/
theorem codecIsSelfConsistentAndDetectsBitErrors : Obligations.CodecIsSelfConsistentAndDetectsBitErrors := by
  refine ⟨fun b => validate_appendCrc, fun b s => execAll_push_append_validate, fun b j k hb hj => ?bitErrors,
    fun s t => exec_validate_idempotent, validate_buildFrame, fun i s hs hi => ?built⟩
  case bitErrors => exact validate_flipBit (validate_appendCrc hb) (by rwa [length_appendCrc])
  case built =>
    obtain ⟨a, r, c, rfl⟩ | ⟨a, r, v, rfl⟩ := hi
    · exact ⟨_, _, exec_bldrd a r c hs, exec_validate_withFrame_buildFrame hs a fcRead r c, rfl⟩
    · exact ⟨_, _, exec_bldwr a r v hs, exec_validate_withFrame_buildFrame hs a Config.fcWrite r v, rfl⟩

/-! ### Read responses (R48, R49) -/

@[simp] theorem length_flatMap_bigEndian (ws : List Half) : (ws.flatMap bigEndian).length = 2 * ws.length := by
  simp [List.length_flatMap, Nat.mul_comm]

/-- Word `k` of the data stands at `2 k`, high byte first (R33). -/
theorem getElem?_flatMap_bigEndian (ws : List Half) (k : Nat) :
    (ws.flatMap bigEndian)[2 * k]? = (ws[k]?).map hi8 ∧ (ws.flatMap bigEndian)[2 * k + 1]? = (ws[k]?).map lo8 := by
  induction ws generalizing k with
  | nil => exact ⟨rfl, rfl⟩
  | cons w ws ih =>
    cases k with
    | zero => exact ⟨rfl, rfl⟩
    | succ k => exact ih k

theorem length_responseBody (a f : Byte) (ws : List Half) : (responseBody a f ws).length = 3 + 2 * ws.length := by
  rw [responseBody, List.length_append, length_flatMap_bigEndian]
  rfl

theorem length_readResponse (a f : Byte) (ws : List Half) : (readResponse a f ws).length = 5 + 2 * ws.length := by
  rw [readResponse, length_appendCrc, length_responseBody]
  omega

theorem getElem?_readResponse_data {ws : List Half} {i : Nat} (a f : Byte) (h : i < 2 * ws.length) :
    (readResponse a f ws)[3 + i]? = (ws.flatMap bigEndian)[i]? := by
  have hlen : 3 + i < (responseBody a f ws).length := by rw [length_responseBody]; omega
  rw [readResponse, appendCrc, List.getElem?_append_left hlen, responseBody,
    List.getElem?_append_right (Nat.le_add_right 3 i)]
  exact congrArg _ (Nat.add_sub_cancel_left 3 i)

theorem getElem?_readResponse_word {ws : List Half} {k : Nat} (a f : Byte) (h : k < ws.length) :
    (readResponse a f ws)[3 + 2 * k]? = (ws[k]?).map hi8 ∧ (readResponse a f ws)[4 + 2 * k]? = (ws[k]?).map lo8 := by
  obtain ⟨hhigh, hlow⟩ := getElem?_flatMap_bigEndian ws k
  rw [show 4 + 2 * k = 3 + (2 * k + 1) by omega, getElem?_readResponse_data a f (by omega),
    getElem?_readResponse_data a f (by omega)]
  exact ⟨hhigh, hlow⟩

theorem frameDataWord_readResponse {ws : List Half} {k : Nat} (a f : Byte) (h : k < ws.length) :
    frameDataWord (readResponse a f ws) k = ws[k]? := by
  obtain ⟨hhigh, hlow⟩ := getElem?_readResponse_word a f h
  rw [List.getElem?_eq_getElem h, Option.map_some] at hhigh hlow
  rw [frameDataWord, frameHalf, show 3 + 2 * k + 1 = 4 + 2 * k by omega, hhigh, hlow, List.getElem?_eq_getElem h]
  exact congrArg some (be16_hi8_lo8 ws[k])

/-- The two bytes `append_crc` adds, by their indices. -/
theorem getElem?_appendCrc_field (s : List Byte) :
    (appendCrc s)[s.length]? = some (lo8 (crc16 s)) ∧ (appendCrc s)[s.length + 1]? = some (hi8 (crc16 s)) := by
  rw [appendCrc, List.getElem?_append_right (Nat.le_refl _), List.getElem?_append_right (Nat.le_add_right _ 1),
    Nat.sub_self, Nat.add_sub_cancel_left]
  exact ⟨rfl, rfl⟩

theorem frameCrc_appendCrc (s : List Byte) : frameCrc (appendCrc s) = some (crc16 s) := by
  obtain ⟨hlow, hhigh⟩ := getElem?_appendCrc_field s
  rw [frameCrc, length_appendCrc, if_neg (by omega), Nat.add_sub_cancel, show s.length + 2 - 1 = s.length + 1 by omega,
    hlow, hhigh]
  exact congrArg some (be16_hi8_lo8 (crc16 s))

theorem take_readResponse (a f : Byte) (ws : List Half) :
    (readResponse a f ws).take (3 + 2 * ws.length) = responseBody a f ws :=
  List.take_left' (length_responseBody a f ws)

theorem frameCrc_readResponse (a f : Byte) (ws : List Half) :
    frameCrc (readResponse a f ws) = some (crc16 ((readResponse a f ws).take (3 + 2 * ws.length))) := by
  rw [take_readResponse, readResponse, frameCrc_appendCrc]

theorem validate_readResponse (a f : Byte) (ws : List Half) : validate (readResponse a f ws) = true :=
  validate_appendCrc (by rw [length_responseBody]; omega)

/-- The ten-word response's CRC field (R48). -/
theorem getElem?_readResponse_crcField {ws : List Half} (a f : Byte) (h : ws.length = 10) :
    (readResponse a f ws)[23]? = some (lo8 (crc16 ((readResponse a f ws).take 23))) ∧
    (readResponse a f ws)[24]? = some (hi8 (crc16 ((readResponse a f ws).take 23))) := by
  have hbody : (responseBody a f ws).length = 23 := by rw [length_responseBody, h]
  have htake : (readResponse a f ws).take 23 = responseBody a f ws := List.take_left' hbody
  have hfield := getElem?_appendCrc_field (responseBody a f ws)
  rw [hbody] at hfield
  rw [htake]
  exact hfield

/-- Settles O51: the three bytes at the front by evaluation, the words by their place in the data, and the CRC field as
the one `append_crc` adds. -/
theorem readResponseHasTheStatedLayout : Obligations.ReadResponseHasTheStatedLayout := by
  refine ⟨fun a f ws _ => ⟨length_readResponse a f ws, rfl, rfl, rfl, fun k => frameDataWord_readResponse a f,
    frameCrc_readResponse a f ws, validate_readResponse a f ws⟩, fun a ws hten => ?tenWords⟩
  case tenWords =>
    have hcount : (readResponse a 0x04 ws)[2]? = some (BitVec.ofNat 8 (2 * ws.length)) := rfl
    rw [hten] at hcount
    exact ⟨by rw [length_readResponse, hten], hcount, fun k hk => getElem?_readResponse_word a 0x04 (hten ▸ hk),
      getElem?_readResponse_crcField a 0x04 hten⟩

end Sys2Proof.Machine
end
